-- ==== Sys2Proof/Word.lean ====
section
/-! DEFINITION. The word types of the FA24: a link byte and a channel mask. -/
namespace Sys2Proof

/-- One byte on the link (R156). -/
abbrev Byte := BitVec 8

/-- A set of the twelve channels of a side: bit c stands for channel c (Section 12.2). -/
abbrev Mask := BitVec 12

/-- A channel of a side, 0 to 11 (00_scope.md, Sides, channels, shots and gates). -/
abbrev Channel := Fin 12

end Sys2Proof
end

