-- ==== Sys2Proof/Syntax.lean ====
section
/-! DEFINITION. The commands of the FA24: one constructor per row of spec/opcode_table.json. -/
namespace Sys2Proof

/-- Side A is the left rail, side B the right rail. -/
inductive Side where
  | a | b
deriving DecidableEq, Repr

/-- The load status of the transmit channel that a completion carries (R66). -/
inductive LoadStatus where
  | good | openLoad | shorted
deriving DecidableEq, Repr

/-- A character of either line (R154): its eight data bits, its mark bit, and the level of its stop bit
(`stop = false`, the low level, is a framing error on the receive line). -/
structure Character where
  data : Byte
  mark : Bool
  stop : Bool
deriving DecidableEq, Repr

/-- The levels of the input pins when RESET_N is released (R155, R184, R191); `true` is the high level. CAR_x is
high for a lowered carriage, HVRDY_x and HVFLT_x are asserted high, and HOLD_IN is asserted low. -/
structure Pins where
  ea : Bool
  eb : Bool
  carA : Bool
  carB : Bool
  hvrdyA : Bool
  hvrdyB : Bool
  hvfltA : Bool
  hvfltB : Bool
  holdIn : Bool
  rate1 : Bool
  rate0 : Bool
deriving DecidableEq, Repr

/-- The commands. The operand `after` of an input event is the time in TU (50 ns) since the command
before it (log 4). The request rows have no operand: the Request Handler takes the oldest held frame,
which holds the request's fields (R171, R188; log 2). -/
inductive Instr where
  /-- IDENTIFY (R185) -/
  | identify
  /-- QUERY_STATUS (R186) -/
  | queryStatus
  /-- SET_ODOMETRY (R15) -/
  | setOdometry
  /-- PRESET_POSITION (R16) -/
  | presetPosition
  /-- SET_TRACKING (R124) -/
  | setTracking
  /-- SET_SIDE (R29) -/
  | setSide
  /-- ARM_SIDE (R27) -/
  | armSide
  /-- DISARM_SIDE (R28) -/
  | disarmSide
  /-- CLEAR_FAULT (R30) -/
  | clearFault
  /-- SET_CHANNEL (R31) -/
  | setChannel
  /-- SET_PROFILE (R35) -/
  | setProfile
  /-- WRITE_SHOT (R43) -/
  | writeShot
  /-- CLEAR_STAGED (R47) -/
  | clearStaged
  /-- READ_SHOT (R48) -/
  | readShot
  /-- SWAP_PLANS (R53) -/
  | swapPlans
  /-- SET_ZONE (R122) -/
  | setZone
  /-- SET_OFFSET (R123) -/
  | setOffset
  /-- START_RUN (R175) -/
  | startRun
  /-- STOP_RUN (R177) -/
  | stopRun
  /-- RESET (R181) -/
  | reset
  /-- UNKNOWN_REQUEST_KIND (R172) -/
  | unknownRequestKind
  /-- FORWARD_COUNT (R4). `first` is the side whose engine is taken first if the count brings a fire
  boundary (R60, R107; log 6). -/
  | forwardCount (after : Nat) (first : Side)
  /-- REVERSE_COUNT (R5) -/
  | reverseCount (after : Nat)
  /-- ILLEGAL_TRANSITION (R2) -/
  | illegalTransition (after : Nat)
  /-- STANDSTILL_TIMER_EXPIRY (R11) -/
  | standstillTimerExpiry
  /-- CARRIAGE_INPUT_CHANGE (R18) -/
  | carriageInputChange (after : Nat) (side : Side)
  /-- DEBOUNCE_EXPIRY (R18) -/
  | debounceExpiry (side : Side)
  /-- HVRDY_ARRIVAL (R23) -/
  | hvrdyArrival (after : Nat) (side : Side)
  /-- HVRDY_FALL (R23) -/
  | hvrdyFall (after : Nat) (side : Side)
  /-- HVFLT_ASSERTED (R24). `level` is the new level of the input: `true` is the assertion, `false` the
  fall, for which the table has no row of its own (log 14). -/
  | hvfltAsserted (after : Nat) (side : Side) (level : Bool)
  /-- RAMP_TIMER_EXPIRY (R23) -/
  | rampTimerExpiry (side : Side)
  /-- PLAN_SWAP_AT_BOUNDARY (R55) -/
  | planSwapAtBoundary
  /-- CHANNEL_RECORD_TAKES_EFFECT (R31) -/
  | channelRecordTakesEffect (side : Side) (channel : Channel)
  /-- SHOT_COMPLETION (R66). `trace` holds the echo trace's samples in AU from time of flight 0 (R78). -/
  | shotCompletion (side : Side) (load : LoadStatus) (trace : List Nat)
  /-- STEP_EVALUATION (R108) -/
  | stepEvaluation (side : Side)
  /-- CLUSTER_RELEASE (R135) -/
  | clusterRelease
  /-- DRAIN_RELEASE_PHASE (R178) -/
  | drainReleasePhase
  /-- DRAIN_END (R179) -/
  | drainEnd
  /-- CHARACTER_RECEIVED (R158) -/
  | characterReceived (after : Nat) (character : Character)
  /-- IDLE_TIMER_EXPIRY (R160) -/
  | idleTimerExpiry
  /-- HOLD_IN_ASSERT (R166) -/
  | holdInAssert (after : Nat)
  /-- HOLD_IN_RELEASE (R166) -/
  | holdInRelease (after : Nat)
  /-- TRANSMISSION_START (R167) -/
  | transmissionStart
  /-- TRANSMISSION_END (R168) -/
  | transmissionEnd
  /-- RESET_RUN_ACTS (R182) -/
  | resetRunActs
  /-- RESET_FULL_ACTS (R183) -/
  | resetFullActs
  /-- PIN_RESET_ASSERT (R184) -/
  | pinResetAssert (after : Nat)
  /-- PIN_RESET_RELEASE (R184), with the input levels found at the release. -/
  | pinResetRelease (after : Nat) (pins : Pins)
deriving DecidableEq, Repr

end Sys2Proof
end

