-- ==== Sys2Proof/Decode.lean ====
section
/-! DEFINITION. The command a word spells by the bits of spec/opcode_table.json. No row of the table
gives bits (its "fields" are empty and no row is "fixed"), so no word spells a command. What the link
carries is read by the Frame Receiver (Machine/Link.lean) and the Request Handler. -/
namespace Sys2Proof

/-- No row of the table gives bits: every word is rejected. -/
def decodeTableWord (_nbits _w : Nat) : Option Instr := none

end Sys2Proof
end

