-- ==== Sys2Proof/Config.lean ====
section
/-! DEFINITION. What the FA24 fixes as constants, and the one free value (log 7). -/
namespace Sys2Proof.Config

/-- FREE VALUE (DESIGN CHOICE, log 7). R151 and R179 do not say which Gap Recorder places its closed
gaps first at the end of the drain; the choice shows only in the creation ordinals of the two GAP
reports. Nothing constrains it: it is applied to the counter `State.free`. -/
opaque drainSideAFirst : Nat → Bool

/-- TU per microsecond: a TU is 50 ns (00_scope.md, Units and ranges). -/
def tuPerUs : Nat := 20
/-- TU per millisecond. -/
def tuPerMs : Nat := 20000
/-- The debounce time, 2 ms (R18), in TU. -/
def debounceTime : Nat := 2 * tuPerMs
/-- The ramp time, 30 ms (R22), in TU. -/
def rampTime : Nat := 30 * tuPerMs
/-- Held-frame buffers (R162). -/
def heldPlaces : Nat := 2
/-- Places of the flaw queue (R135). -/
def flawPlaces : Nat := 24
/-- Ranges of a GAP report (R148). -/
def gapRanges : Nat := 8
/-- Members of a cluster (R128). -/
def clusterMembers : Nat := 8
/-- Shots of a list (R40). -/
def listShots : Nat := 16
/-- Greatest payload length (R156). -/
def maxPayload : Nat := 240
/-- The end of the time of flight scale, in TU (R45, R82). -/
def traceEnd : Nat := 4000
/-- Full scale of the amplitude, in AU: a saturated sample (R78). -/
def fullScale : Nat := 200
/-- Greatest and least step number (00_scope.md). -/
def maxStep : Int := 2147483647
def minStep : Int := -2147483648
/-- Bounds of the step period in µs (R12). -/
def maxPeriod : Nat := 16777215

end Sys2Proof.Config
end

