-- ==== Sys2Proof/Machine/State.lean ====
section
/-! DEFINITION. The state of the FA24 as plain data, block by block, and the state right after a pin reset. -/
namespace Sys2Proof.Machine

/-- The spec names no event that stops the block (INVENTORY.md, Faults): there is no fault, and no
meaning answers one. -/
inductive Fault where
deriving DecidableEq, Repr

/-- Why a command has no next state. -/
inductive Refusal where
  /-- Raised by exec's arm of a command that has no meaning yet; no arm uses it. Safe. -/
  | notModelled (mnemonic : String)
deriving DecidableEq, Repr

/-- One value for each side (00_scope.md: blocks marked "per side" exist twice). -/
structure PerSide (α : Type) where
  a : α
  b : α
deriving DecidableEq, Repr

/-! ## Distance Unit (Chapter 1) -/

/-- Encoder sense (R1). -/
inductive Sense where
  | normal | swapped
deriving DecidableEq, Repr

/-- Motion state (R10). -/
inductive MotionState where
  | standstill | reverse | returning | forward
deriving DecidableEq, Repr

/-- A pair of levels of EA and EB (R1). -/
structure EncoderPair where
  ea : Bool
  eb : Bool
deriving DecidableEq, Repr

/-- The Distance Unit's state (Chapter 1). Times are in TU, the step period in µs. -/
structure Du where
  lastPair : EncoderPair
  sense : Sense
  n : Nat
  k : Nat
  timeout : Nat
  step : Int
  pos : Nat
  hwm : Int
  motion : MotionState
  /-- standstill timer: stopped, or the time at which it runs out (R11) -/
  standstill : Option Nat
  /-- boundary reference (R12) -/
  reference : Option Nat
  /-- step period, unknown or in µs (R12) -/
  period : Option Nat
  fast : Bool
  encoderError : Bool
  rangeEnd : Bool
deriving DecidableEq, Repr

/-! ## Side Controller (Chapter 2) -/

/-- Side state (R19). -/
inductive SideState where
  | parked | lowered | arming | armed | fault
deriving DecidableEq, Repr

/-- HV level (R29). -/
inductive HvLevel where
  | off | low | mid | high
deriving DecidableEq, Repr

/-- Disposition of a side event (R36). -/
inductive Disposition where
  | ignore | report | alert | halt
deriving DecidableEq, Repr

/-- The eight side events, in the order of R36. -/
inductive SideEvent where
  | carriageDown | carriageUp | armed | hvFault | rampTimeout | channelFault | couplingLost
  | couplingRegained
deriving DecidableEq, Repr

/-- One disposition for each event (R29, R36). -/
structure Dispositions where
  carriageDown : Disposition
  carriageUp : Disposition
  armed : Disposition
  hvFault : Disposition
  rampTimeout : Disposition
  channelFault : Disposition
  couplingLost : Disposition
  couplingRegained : Disposition
deriving DecidableEq, Repr

/-- Configured role of a channel (R31). -/
inductive Role where
  | off | pe | tx | rx
deriving DecidableEq, Repr

/-- A channel record (R31). -/
structure ChannelRecord where
  role : Role
  partner : Channel
  lose : Nat
  regain : Nat
deriving DecidableEq, Repr

/-- Fault latch of a channel (R34). -/
inductive FaultLatch where
  | none | openLoad | shorted
deriving DecidableEq, Repr

/-- A timing profile: pre-trigger delay and pulse width in TU, recovery in µs (R35). -/
structure Profile where
  preTrigger : Nat
  pulse : Nat
  recovery : Nat
deriving DecidableEq, Repr

/-- A debounce candidate: the level (`true` lowered) and the time at which it will have been held for
2 ms (R18). -/
structure Debounce where
  level : Bool
  deadline : Nat
deriving DecidableEq, Repr

/-- The Side Controller's state (Chapter 2). The change latch set and the alert mark are those of the
pending SIDE report and stand in its slot (R37). -/
structure Sc where
  state : SideState
  /-- carriage flag: lowered or raised (R18) -/
  lowered : Bool
  /-- the raw carriage input: lowered or raised (R18, R191) -/
  carriageInput : Bool
  candidate : Option Debounce
  level : HvLevel
  autoArm : Bool
  /-- supply command (R21) -/
  supply : HvLevel
  /-- ramp timer: stopped, or the time at which it runs out (R22) -/
  ramp : Option Nat
  dispositions : Dispositions
  channels : Vector ChannelRecord 12
  pendingRecords : Vector (Option ChannelRecord) 12
  faults : Vector FaultLatch 12
  profiles : Vector Profile 4
  /-- the level of the HVRDY input (R23) -/
  hvrdy : Bool
  /-- the level of the HVFLT input (R24) -/
  hvflt : Bool
deriving DecidableEq, Repr

/-! ## Plan Store (Chapter 3) -/

/-- Gate purpose (R42). -/
inductive GatePurpose where
  | detect | coupling | reference
deriving DecidableEq, Repr

/-- Start mode (R42). -/
inductive StartMode where
  | absolute | follow
deriving DecidableEq, Repr

/-- Gate condition (R42). -/
inductive Condition where
  | above | below | inside | outside
deriving DecidableEq, Repr

/-- A gate record (R42). The condition is kept as its code: a REFERENCE gate's is not checked and reads
back as written (R44, R48; log 24). -/
structure Gate where
  purpose : GatePurpose
  mode : StartMode
  start : Nat
  width : Nat
  t1 : Nat
  t2 : Nat
  conditionCode : Byte
deriving DecidableEq, Repr

/-- A shot record (R41). -/
structure Shot where
  tx : Channel
  rx : Channel
  gain : Nat
  profile : Fin 4
  cadence : Nat
  phase : Nat
  gates : List Gate
deriving DecidableEq, Repr

/-- A shot of a list with the duration the Plan Store keeps for it, in µs (R50, R52). -/
structure PlannedShot where
  shot : Shot
  duration : Nat
deriving DecidableEq, Repr

/-- One side's list of a slot with its plan time in µs (R40, R51). -/
structure ShotList where
  shots : List PlannedShot
  planTime : Nat
deriving DecidableEq, Repr

/-- The Plan Store's state (Chapter 3). -/
structure Ps where
  active : PerSide ShotList
  staged : PerSide ShotList
  generation : BitVec 16
  swapPending : Bool
deriving DecidableEq, Repr

/-! ## Shot Engine (Chapter 4) -/

/-- The five causes for which a due shot's results do not reach the tracker (R143). The first four are
also the skip causes of an outcome entry (R70). -/
inductive GapCause where
  | overrun | sideNotReady | channelOff | coupling | tableFull
deriving DecidableEq, Repr

/-- What a gate measured: peak amplitude in AU and its time of flight in TU (R84). -/
structure Measurement where
  peak : Nat
  tof : Nat
deriving DecidableEq, Repr

/-- Result kind with what R87 attaches to it: a HIT or a MISS of a DETECT or COUPLING gate carries its
measurement. -/
inductive ResultKind where
  | hit (m : Measurement)
  | miss (m : Measurement)
  | unevaluated
deriving DecidableEq, Repr

/-- A DETECT result kept in an outcome entry (R70, R88). -/
structure DetectResult where
  gate : Nat
  kind : ResultKind
deriving DecidableEq, Repr

/-- Outcome of a due shot (R70): SKIPPED with its cause, or COMPLETED, with cause COUPLING when
`blocked`, and otherwise with its DETECT results. -/
inductive ShotOutcome where
  | skipped (cause : GapCause)
  | completed (blocked : Bool) (results : List DetectResult)
deriving DecidableEq, Repr

/-- An outcome entry of a step record (R70). -/
structure OutcomeEntry where
  shot : Nat
  tx : Channel
  rx : Channel
  outcome : ShotOutcome
deriving DecidableEq, Repr

/-- A step record handed to the tracker and the gap recorder (R61, R72). -/
structure StepRecord where
  step : Int
  generation : BitVec 16
  entries : List OutcomeEntry
deriving DecidableEq, Repr

/-- What the front end is given at shot start (R65): channels, gain, the profile's values, the listening
end, and the level the supply drives. -/
structure FrontEndParams where
  tx : Channel
  rx : Channel
  gain : Nat
  preTrigger : Nat
  pulse : Nat
  recovery : Nat
  listeningEnd : Nat
  level : HvLevel
deriving DecidableEq, Repr

/-- The shot in flight: its index, start time in TU, duration in µs, and front-end parameters (R65). -/
structure InFlight where
  shot : Nat
  start : Nat
  duration : Nat
  params : FrontEndParams
deriving DecidableEq, Repr

/-- What an engine holds while FIRING (Chapter 4, R61). -/
structure Firing where
  step : Int
  generation : BitVec 16
  due : List Nat
  position : Nat
  inFlight : Option InFlight
  record : List OutcomeEntry
  owed : Nat
deriving DecidableEq, Repr

/-- The Shot Engine's state: IDLE is `firing = none`. `finished` holds the step records whose evaluation
is still to be made within the step that built them (the model's own, log 5). -/
structure Se where
  firing : Option Firing
  finished : List StepRecord
deriving DecidableEq, Repr

/-! ## Coupling Supervisor (Chapter 6) -/

/-- Coupling state (R95). -/
inductive CouplingState where
  | unsupervised | unproven | coupled | doubtful | lost
deriving DecidableEq, Repr

/-- The rating of one channel (R94). -/
structure ChannelCoupling where
  state : CouplingState
  bad : Nat
  good : Nat
deriving DecidableEq, Repr

/-- The Coupling Supervisor's state (Chapter 6). The changed mask and the alert mark are those of the
pending COUPLING report and stand in its slot (R101). -/
structure Cs where
  ratings : Vector ChannelCoupling 12
  supervised : Mask
deriving DecidableEq, Repr

/-! ## Indication Tracker (Chapters 7 and 8) -/

/-- The flags of an indication (R104). -/
structure IndicationFlags where
  interrupted : Bool
  saturated : Bool
  truncated : Bool
  long : Bool
  planChange : Bool
deriving DecidableEq, Repr

/-- The fields of an entry in use (R104). The zone kind is absent or 1 to 15. -/
structure Indication where
  side : Side
  shot : Nat
  gate : Nat
  tx : Channel
  rx : Channel
  generation : BitVec 16
  first : Int
  last : Int
  hits : Nat
  peak : Nat
  peakStep : Int
  peakTof : Nat
  tofMin : Nat
  tofMax : Nat
  zoneKind : Option Nat
  flags : IndicationFlags
deriving DecidableEq, Repr

/-- Release mode (R134, R138). -/
inductive ReleaseMode where
  | due | forced
deriving DecidableEq, Repr

/-- What a head holds for its cluster (R128): `sealedAs` is absent while the sealed flag is clear. -/
structure Cluster where
  release : Int
  count : Nat
  sealedAs : Option ReleaseMode
deriving DecidableEq, Repr

/-- Cluster membership of a HELD entry (R104, R128): `cluster` stands on the head alone. -/
structure Membership where
  head : Fin 64
  order : Nat
  cluster : Option Cluster
deriving DecidableEq, Repr

/-- An entry of the Indication Table (R103). -/
inductive TableEntry where
  | free
  | opened (i : Indication) (missRun : Nat)
  | held (i : Indication) (m : Membership)
deriving DecidableEq, Repr

/-- Zone action (R118). -/
inductive ZoneAction where
  | mask | tag
deriving DecidableEq, Repr

/-- A zone record (R118). -/
structure Zone where
  enable : Bool
  start : Int
  stop : Int
  channels : Mask
  action : ZoneAction
  kind : Nat
deriving DecidableEq, Repr

/-- Zone outcome of a receive channel at a step (R119). -/
inductive ZoneOutcome where
  | clear
  | masked
  | tagged (kind : Nat)
deriving DecidableEq, Repr

/-- The zone verdict of a fire step for one side (R120). -/
structure Verdict where
  step : Int
  outcomes : Vector ZoneOutcome 12
deriving DecidableEq, Repr

/-- Tracking settings (R124). -/
structure Tracking where
  bridge : Nat
  minHits : Nat
  maxLength : Nat
  window : Nat
  cap : PerSide Nat
deriving DecidableEq, Repr

/-- The Indication Tracker's state (Chapters 7 and 8). -/
structure It where
  table : Vector TableEntry 64
  settings : Tracking
  zones : PerSide (Vector Zone 8)
  offset : Int
  verdicts : PerSide (List Verdict)
deriving DecidableEq, Repr

/-! ## Gap Recorder (Chapter 9) -/

/-- An open gap (Chapter 9, R145). -/
structure Gap where
  first : Int
  last : Int
  channels : Mask
deriving DecidableEq, Repr

/-- One value for each gap cause, in the order of R143. -/
structure PerCause (α : Type) where
  overrun : α
  sideNotReady : α
  channelOff : α
  coupling : α
  tableFull : α
deriving DecidableEq, Repr

/-- The Gap Recorder's state: the open gap of each cause (Chapter 9). -/
structure Gr where
  gaps : PerCause (Option Gap)
deriving DecidableEq, Repr

/-! ## Run Control (Chapter 11) -/

/-- Run state (R174). -/
inductive RunState where
  | idle | running | stopping
deriving DecidableEq, Repr

/-- Stop cause (R174). -/
inductive StopCause where
  | none | request | halt | rangeEnd | resetRun | resetFull | powerOn
deriving DecidableEq, Repr

/-- Drain phase (R178). -/
inductive DrainPhase where
  | none | lists | release
deriving DecidableEq, Repr

/-- Scope of a RESET request (R181). -/
inductive Scope where
  | run | full
deriving DecidableEq, Repr

/-- Handler state (R181). `ackSent` tells that the transmission of the RESET's ACK has ended, the moment
at which the reset acts. -/
inductive HandlerState where
  | ready
  | awaitingReset (scope : Scope) (ackSent : Bool)
deriving DecidableEq, Repr

/-- Run Control's and the Request Handler's state (Chapter 11); the RUNSTATE slot stands in `Li`. -/
structure Rc where
  run : RunState
  cause : StopCause
  drain : DrainPhase
  handler : HandlerState
deriving DecidableEq, Repr

/-! ## Reports and the Message Link (Chapters 1, 2, 6, 8, 9, 10) -/

/-- Cause set of a MOTION report (R14). -/
structure MotionCauses where
  state : Bool
  fast : Bool
  encoderError : Bool
  rangeEnd : Bool
deriving DecidableEq, Repr

/-- A MOTION report (R14). -/
structure MotionReport where
  causes : MotionCauses
  step : Int
  hwm : Int
  period : Option Nat
  motion : MotionState
  fast : Bool
  encoderError : Bool
  rangeEnd : Bool
deriving DecidableEq, Repr

/-- Where a swap was carried out (R58). -/
inductive SwapPlace where
  | none | boundary | idleEntry
deriving DecidableEq, Repr

/-- Cause set of a RUNSTATE report (R180). -/
structure RunCauses where
  start : Bool
  stop : Bool
  idle : Bool
  swap : Bool
  reset : Bool
deriving DecidableEq, Repr

/-- A RUNSTATE report (R180). -/
structure RunstateReport where
  causes : RunCauses
  run : RunState
  cause : StopCause
  hwm : Int
  generation : BitVec 16
  swapStep : Int
  swapPlace : SwapPlace
deriving DecidableEq, Repr

/-- A pending SIDE report: change latch set (bit e for event e) and alert mark. Its other values are the
Side Controller's own while it is pending (R37; log 17). -/
structure SideReport where
  events : BitVec 6
  mark : Bool
deriving DecidableEq, Repr

/-- A pending COUPLING report: changed mask and alert mark. Its states are the supervisor's own while it is
pending (R101; log 17). -/
structure CouplingReport where
  changed : Mask
  mark : Bool
deriving DecidableEq, Repr

/-- A range of a GAP report (R148). -/
structure GapRange where
  first : Int
  last : Int
  causes : BitVec 5
  channels : Mask
  count : Nat
  drain : Bool
deriving DecidableEq, Repr

/-- A GAP report (R148). -/
structure GapReport where
  ranges : List GapRange
deriving DecidableEq, Repr

/-- A FLAW report (R139, R140): members in ascending join order. -/
structure FlawReport where
  side : Side
  generation : BitVec 16
  first : Int
  last : Int
  release : Int
  mode : ReleaseMode
  hwm : Int
  strongest : Nat
  members : List Indication
deriving DecidableEq, Repr

/-- A report with the creation ordinal it took (R165). -/
structure Pending (α : Type) where
  ordinal : BitVec 16
  report : α
deriving DecidableEq, Repr

/-- A request frame held with a good check (R162). Its class is A1h and its payload length is that of
`payload`. -/
structure Frame where
  kind : Byte
  tag : Byte
  payload : List Byte
deriving DecidableEq, Repr

/-- A reply waiting in the reply slot (R173). `resetAck` marks the ACK of an accepted RESET (R181). -/
structure Reply where
  kind : Byte
  tag : Byte
  payload : List Byte
  resetAck : Bool
deriving DecidableEq, Repr

/-- Whose frame is in transmission (R167, R168). -/
inductive FrameOwner where
  | reply (resetAck : Bool)
  | motion
  | runstate
  | side (x : Side)
  | coupling (x : Side)
  | gap (x : Side)
  | flaw
deriving DecidableEq, Repr

/-- The frame in transmission: its owner, its alert mark, its characters with their mark and stop bits, and the times
in TU at which it began and at which its last stop bit ends (R154, R168). -/
structure TxFrame where
  owner : FrameOwner
  mark : Bool
  characters : List Character
  start : Nat
  finish : Nat
deriving DecidableEq, Repr

/-- Link rate (R155), in Mbit/s. -/
inductive LinkRate where
  | half | one | two | four
deriving DecidableEq, Repr

/-- The Frame Receiver (R158 to R161). HUNTING is `assembling = false`; `unmarkedRun` tells that a run of
unmarked characters has begun in HUNTING; `idle` is the idle timer. -/
structure Receiver where
  assembling : Bool
  buffer : List Byte
  unmarkedRun : Bool
  idle : Option Nat
deriving DecidableEq, Repr

/-- The link latches (R164). -/
structure LinkLatches where
  framing : Bool
  check : Bool
  timeout : Bool
  overrun : Bool
  format : Bool
deriving DecidableEq, Repr

/-- The Link Interface's state (Chapter 10). -/
structure Li where
  rate : LinkRate
  receiver : Receiver
  held : List Frame
  latches : LinkLatches
  reply : Option Reply
  motion : Option (Pending MotionReport)
  runstate : Option (Pending RunstateReport)
  side : PerSide (Option (Pending SideReport))
  coupling : PerSide (Option (Pending CouplingReport))
  gap : PerSide (Option (Pending GapReport))
  flawQueue : List (Pending FlawReport)
  ordinal : BitVec 16
  sequence : BitVec 8
  tx : Option TxFrame
  /-- HOLD_IN asserted (R166) -/
  holdIn : Bool
deriving DecidableEq, Repr

/-! ## The whole state -/

/-- The state of the FA24. The last five fields are the model's own: the queue of commands, the time in
TU (log 4), whether RESET_N is held low (R184), the fire step whose boundary work is under way (log 5), and
the counter of the free value (log 7). -/
structure State where
  du : Du
  sc : PerSide Sc
  ps : Ps
  se : PerSide Se
  cs : PerSide Cs
  it : It
  gr : PerSide Gr
  li : Li
  rc : Rc
  pending : List Instr
  now : Nat
  pinReset : Bool
  boundary : Option Int
  free : Nat
deriving DecidableEq, Repr

/-! ## Reset values -/

/-- R17. -/
def Du.reset (pair : EncoderPair) : Du where
  lastPair := pair
  sense := .normal
  n := 16
  k := 0
  timeout := 500
  step := 0
  pos := 0
  hwm := 0
  motion := .standstill
  standstill := none
  reference := none
  period := none
  fast := false
  encoderError := false
  rangeEnd := false

/-- R39: all dispositions REPORT. -/
def Dispositions.reset : Dispositions :=
  ⟨.report, .report, .report, .report, .report, .report, .report, .report⟩

/-- R39: role OFF, partner 0, lose count 3, regain count 3. -/
def ChannelRecord.reset : ChannelRecord := ⟨.off, 0, 3, 3⟩

/-- R39: pre-trigger delay 0, pulse width 4, recovery 100. -/
def Profile.reset : Profile := ⟨0, 4, 100⟩

/-- R39, pin-reset column: the flag is the input level without debounce. -/
def Sc.reset (carriage hvrdy hvflt : Bool) : Sc where
  state := if carriage then .lowered else .parked
  lowered := carriage
  carriageInput := carriage
  candidate := none
  level := .off
  autoArm := false
  supply := .off
  ramp := none
  dispositions := Dispositions.reset
  channels := Vector.replicate 12 ChannelRecord.reset
  pendingRecords := Vector.replicate 12 none
  faults := Vector.replicate 12 .none
  profiles := Vector.replicate 4 Profile.reset
  hvrdy := hvrdy
  hvflt := hvflt

/-- R59: an empty list, plan time 0. -/
def ShotList.reset : ShotList := ⟨[], 0⟩

/-- R59. -/
def Ps.reset : Ps := ⟨⟨.reset, .reset⟩, ⟨.reset, .reset⟩, 0, false⟩

/-- R77. -/
def Se.reset : Se := ⟨none, []⟩

/-- R102. -/
def Cs.reset : Cs := ⟨Vector.replicate 12 ⟨.unsupervised, 0, 0⟩, 0⟩

/-- R127: enable off, start 0, stop 0, channel mask empty, action MASK, kind 0. -/
def Zone.reset : Zone := ⟨false, 0, 0, 0, .mask, 0⟩

/-- R127: bridge 2, minimum hits 2, maximum length 1024, cluster window 8, caps 40 and 40. -/
def Tracking.reset : Tracking := ⟨2, 2, 1024, 8, ⟨40, 40⟩⟩

/-- R127. -/
def It.reset : It where
  table := Vector.replicate 64 .free
  settings := Tracking.reset
  zones := ⟨Vector.replicate 8 Zone.reset, Vector.replicate 8 Zone.reset⟩
  offset := 0
  verdicts := ⟨[], []⟩

/-- R153. -/
def Gr.reset : Gr := ⟨⟨none, none, none, none, none⟩⟩

/-- R169: HUNTING, buffer empty, idle timer stopped. That no run of unmarked characters (R158) is in progress, which the
table does not list, is a DESIGN CHOICE, unsafe (log 26). -/
def Receiver.reset : Receiver := ⟨false, [], false, none⟩

/-- R187: the RUNSTATE report that a pin reset places. -/
def RunstateReport.powerOn : RunstateReport :=
  ⟨⟨false, false, false, false, true⟩, .idle, .powerOn, 0, 0, 0, .none⟩

/-- R169, pin-reset column, after the RUNSTATE report of R187 has taken ordinal 0. -/
def Li.reset (rate : LinkRate) (holdIn : Bool) : Li where
  rate := rate
  receiver := Receiver.reset
  held := []
  latches := ⟨false, false, false, false, false⟩
  reply := none
  motion := none
  runstate := some ⟨0, RunstateReport.powerOn⟩
  side := ⟨none, none⟩
  coupling := ⟨none, none⟩
  gap := ⟨none, none⟩
  flawQueue := []
  ordinal := 1
  sequence := 0
  tx := none
  holdIn := holdIn

/-- R187, pin-reset column. -/
def Rc.reset : Rc := ⟨.idle, .powerOn, .none, .ready⟩

/-- The machine right after a pin reset. The spec leaves the levels of the input pins to the outside: here
EA and EB are low, both carriages raised, HVRDY, HVFLT and HOLD_IN deasserted and both straps low
(DESIGN CHOICE, log 13). -/
def State.reset : State where
  du := Du.reset ⟨false, false⟩
  sc := ⟨Sc.reset false false false, Sc.reset false false false⟩
  ps := Ps.reset
  se := ⟨Se.reset, Se.reset⟩
  cs := ⟨Cs.reset, Cs.reset⟩
  it := It.reset
  gr := ⟨Gr.reset, Gr.reset⟩
  li := Li.reset .half false
  rc := Rc.reset
  pending := []
  now := 0
  pinReset := false
  boundary := none
  free := 0

end Sys2Proof.Machine
end

