-- ==== Sys2Proof/Machine/Ops.lean ====
section
/-! DEFINITION. The named operations over the state: the per-side and per-cause accessors, the setter of each
block, the clock, and the placing of reports in the slots and the flaw queue (R14, R37, R101, R135, R148,
R165, R180). -/
namespace Sys2Proof.Machine

/-- The other side. -/
def otherSide : Side → Side
  | .a => .b
  | .b => .a

/-! ## Accessors -/

/-- The value of side `x`. -/
def PerSide.get {α : Type} (p : PerSide α) : Side → α
  | .a => p.a
  | .b => p.b

/-- Replace the value of side `x`. -/
def PerSide.set {α : Type} (p : PerSide α) (x : Side) (v : α) : PerSide α :=
  match x with
  | .a => { p with a := v }
  | .b => { p with b := v }

/-- The value of a gap cause. -/
def PerCause.get {α : Type} (p : PerCause α) : GapCause → α
  | .overrun => p.overrun
  | .sideNotReady => p.sideNotReady
  | .channelOff => p.channelOff
  | .coupling => p.coupling
  | .tableFull => p.tableFull

/-- Replace the value of a gap cause. -/
def PerCause.set {α : Type} (p : PerCause α) (c : GapCause) (v : α) : PerCause α :=
  match c with
  | .overrun => { p with overrun := v }
  | .sideNotReady => { p with sideNotReady := v }
  | .channelOff => { p with channelOff := v }
  | .coupling => { p with coupling := v }
  | .tableFull => { p with tableFull := v }

/-- The five causes in ascending number (R143). -/
def gapCauses : List GapCause := [.overrun, .sideNotReady, .channelOff, .coupling, .tableFull]

/-- The disposition of an event (R36). -/
def Dispositions.get (d : Dispositions) : SideEvent → Disposition
  | .carriageDown => d.carriageDown
  | .carriageUp => d.carriageUp
  | .armed => d.armed
  | .hvFault => d.hvFault
  | .rampTimeout => d.rampTimeout
  | .channelFault => d.channelFault
  | .couplingLost => d.couplingLost
  | .couplingRegained => d.couplingRegained

/-- The twelve channels of a side, ascending. -/
def allChannels : List Channel := List.finRange 12

/-- The set that holds one channel. -/
def channelBit (c : Channel) : Mask := 1#12 <<< c.val

/-- The set of the channels for which `f` holds. -/
def maskOf (f : Channel → Bool) : Mask :=
  allChannels.foldl (fun m c => if f c then m ||| channelBit c else m) 0#12

/-! ## Setters, one for each block of the state -/

def State.setDu (s : State) (d : Du) : State := { s with du := d }
def State.setSc (s : State) (x : Side) (v : Sc) : State := { s with sc := s.sc.set x v }
def State.setPs (s : State) (p : Ps) : State := { s with ps := p }
def State.setSe (s : State) (x : Side) (v : Se) : State := { s with se := s.se.set x v }
def State.setCs (s : State) (x : Side) (v : Cs) : State := { s with cs := s.cs.set x v }
def State.setIt (s : State) (t : It) : State := { s with it := t }
def State.setGr (s : State) (x : Side) (v : Gr) : State := { s with gr := s.gr.set x v }
def State.setLi (s : State) (l : Li) : State := { s with li := l }
def State.setRc (s : State) (r : Rc) : State := { s with rc := r }
def State.setBoundary (s : State) (b : Option Int) : State := { s with boundary := b }

/-- Change one side's Side Controller. -/
def State.modifySc (s : State) (x : Side) (f : Sc → Sc) : State := s.setSc x (f (s.sc.get x))

/-! ## The clock (log 4) -/

/-- Let `t` TU pass. -/
def State.advance (s : State) (t : Nat) : State := { s with now := s.now + t }

/-- Let time pass until `t`, if `t` is still to come. -/
def State.advanceTo (s : State) (t : Nat) : State := { s with now := max s.now t }

/-- An input event acts only while RESET_N is released: while the pin is asserted the part takes no
count, no carriage or supply input and no character (R184), and the block's own steps rest. -/
def State.whenLive (s : State) (f : State → State) : State := if s.pinReset then s else f s

/-! ## Reports (R165) -/

/-- The union of two MOTION cause sets. -/
def MotionCauses.union (a b : MotionCauses) : MotionCauses :=
  ⟨a.state || b.state, a.fast || b.fast, a.encoderError || b.encoderError, a.rangeEnd || b.rangeEnd⟩

/-- Whether a MOTION cause set holds a cause. -/
def MotionCauses.any (c : MotionCauses) : Bool := c.state || c.fast || c.encoderError || c.rangeEnd

/-- The union of two RUNSTATE cause sets. -/
def RunCauses.union (a b : RunCauses) : RunCauses :=
  ⟨a.start || b.start, a.stop || b.stop, a.idle || b.idle, a.swap || b.swap, a.reset || b.reset⟩

/-- R14: place a MOTION report with these causes and the values of `r`. -/
def Li.placeMotion (causes : MotionCauses) (r : MotionReport) (l : Li) : Li :=
  match l.motion with
  | none => { l with motion := some ⟨l.ordinal, { r with causes := causes }⟩, ordinal := l.ordinal + 1 }
  | some p => { l with motion := some ⟨p.ordinal, { r with causes := p.report.causes.union causes }⟩ }

/-- R58, R180: place a RUNSTATE report with these causes and the values of `r`; the swap fields of a
pending report are kept unless `swap` brings new ones. -/
def Li.placeRunstate (causes : RunCauses) (swap : Option (Int × SwapPlace)) (r : RunstateReport) (l : Li) :
    Li :=
  match l.runstate with
  | none =>
    { l with
      runstate := some ⟨l.ordinal, { r with
        causes := causes
        swapStep := (swap.map Prod.fst).getD 0
        swapPlace := (swap.map Prod.snd).getD .none }⟩
      ordinal := l.ordinal + 1 }
  | some p =>
    { l with
      runstate := some ⟨p.ordinal, { r with
        causes := p.report.causes.union causes
        swapStep := (swap.map Prod.fst).getD p.report.swapStep
        swapPlace := (swap.map Prod.snd).getD p.report.swapPlace }⟩ }

/-- R37: place an event into side `x`'s SIDE report. -/
def Li.placeSide (x : Side) (event : BitVec 6) (mark : Bool) (l : Li) : Li :=
  match l.side.get x with
  | none => { l with side := l.side.set x (some ⟨l.ordinal, ⟨event, mark⟩⟩), ordinal := l.ordinal + 1 }
  | some p =>
    { l with side := l.side.set x (some ⟨p.ordinal, ⟨p.report.events ||| event, p.report.mark || mark⟩⟩) }

/-- R101: place a channel's event into side `x`'s COUPLING report. -/
def Li.placeCoupling (x : Side) (channel : Channel) (mark : Bool) (l : Li) : Li :=
  match l.coupling.get x with
  | none =>
    { l with
      coupling := l.coupling.set x (some ⟨l.ordinal, ⟨channelBit channel, mark⟩⟩)
      ordinal := l.ordinal + 1 }
  | some p =>
    { l with
      coupling := l.coupling.set x
        (some ⟨p.ordinal, ⟨p.report.changed ||| channelBit channel, p.report.mark || mark⟩⟩) }

/-- R149: a closed gap merged into a range. -/
def GapRange.merge (r g : GapRange) : GapRange where
  first := min r.first g.first
  last := max r.last g.last
  causes := r.causes ||| g.causes
  channels := r.channels ||| g.channels
  count := min 255 (r.count + g.count)
  drain := r.drain || g.drain

/-- Merge a closed gap into the last range of a report. -/
def mergeLast : List GapRange → GapRange → List GapRange
  | [], g => [g]
  | [r], g => [r.merge g]
  | r :: r' :: rs, g => r :: mergeLast (r' :: rs) g

/-- R148, R149: the ranges of a report once a closed gap has been placed in it. -/
def GapReport.add (r : GapReport) (g : GapRange) : GapReport :=
  if r.ranges.length < Config.gapRanges then ⟨r.ranges ++ [g]⟩ else ⟨mergeLast r.ranges g⟩

/-- R148: place a closed gap, as a range of its own, in side `x`'s GAP slot. -/
def Li.placeGap (x : Side) (g : GapRange) (l : Li) : Li :=
  match l.gap.get x with
  | none => { l with gap := l.gap.set x (some ⟨l.ordinal, ⟨[g]⟩⟩), ordinal := l.ordinal + 1 }
  | some p => { l with gap := l.gap.set x (some ⟨p.ordinal, p.report.add g⟩) }

/-- R135: append a FLAW report at the tail of the flaw queue. -/
def Li.appendFlaw (r : FlawReport) (l : Li) : Li :=
  { l with flawQueue := l.flawQueue ++ [⟨l.ordinal, r⟩], ordinal := l.ordinal + 1 }

/-- R180: the RUNSTATE trigger, with Run Control's values of this moment. -/
def placeRunstate (causes : RunCauses) (swap : Option (Int × SwapPlace)) (s : State) : State :=
  s.setLi (s.li.placeRunstate causes swap
    ⟨causes, s.rc.run, s.rc.cause, s.du.hwm, s.ps.generation, 0, .none⟩)

end Sys2Proof.Machine
end

