-- ==== Sys2Proof/Machine/Operands.lean ====
section
/-! DEFINITION. The operand forms of the link: the fields of a request's payload (R188) and the fields that
replies and reports are built of (R189, R190), most significant byte first (R156), and the value codes of
Section 12.2. -/
namespace Sys2Proof.Machine

/-! ## Reading a payload -/

/-- The byte at a position of a payload, as a number. -/
def u8 (p : List Byte) (i : Nat) : Nat := (p.getD i 0).toNat

/-- A two-byte field. -/
def u16 (p : List Byte) (i : Nat) : Nat := u8 p i * 256 + u8 p (i + 1)

/-- A signed four-byte field (two's complement). -/
def s32 (p : List Byte) (i : Nat) : Int :=
  let n := u16 p i * 65536 + u16 p (i + 2)
  if n < 2147483648 then (n : Int) else (n : Int) - 4294967296

/-- The side code (Section 12.2): 0 A, 1 B. -/
def sideOfCode : Nat → Option Side
  | 0 => some .a
  | 1 => some .b
  | _ => none

/-- The off/on code. -/
def boolOfCode : Nat → Option Bool
  | 0 => some false
  | 1 => some true
  | _ => none

def senseOfCode : Nat → Option Sense
  | 0 => some .normal
  | 1 => some .swapped
  | _ => none

def levelOfCode : Nat → Option HvLevel
  | 0 => some .off
  | 1 => some .low
  | 2 => some .mid
  | 3 => some .high
  | _ => none

def dispositionOfCode : Nat → Option Disposition
  | 0 => some .ignore
  | 1 => some .report
  | 2 => some .alert
  | 3 => some .halt
  | _ => none

def roleOfCode : Nat → Option Role
  | 0 => some .off
  | 1 => some .pe
  | 2 => some .tx
  | 3 => some .rx
  | _ => none

def purposeOfCode : Nat → Option GatePurpose
  | 0 => some .detect
  | 1 => some .coupling
  | 2 => some .reference
  | _ => none

def modeOfCode : Nat → Option StartMode
  | 0 => some .absolute
  | 1 => some .follow
  | _ => none

def conditionOfCode : Nat → Option Condition
  | 0 => some .above
  | 1 => some .below
  | 2 => some .inside
  | 3 => some .outside
  | _ => none

def zoneActionOfCode : Nat → Option ZoneAction
  | 0 => some .mask
  | 1 => some .tag
  | _ => none

def scopeOfCode : Nat → Option Scope
  | 0 => some .run
  | 1 => some .full
  | _ => none

/-- A channel number, once it is known to be at most 11. -/
def channelOf (n : Nat) : Channel := Fin.ofNat 12 n

/-- One check taken into account: its field index, and whether it fails. -/
def lowerIndex (best : Option Nat) (c : Nat × Bool) : Option Nat :=
  if c.2 then some (match best with
    | none => c.1
    | some b => min b c.1)
  else best

/-- The lowest index among the checks that fail (R43, R172). -/
def lowestFailing (checks : List (Nat × Bool)) : Option Nat := checks.foldl lowerIndex none

/-! ## Building a payload -/

def byte (n : Nat) : Byte := BitVec.ofNat 8 n

def be16 (n : Nat) : List Byte := [byte (n / 256), byte n]

def be24 (n : Nat) : List Byte := [byte (n / 65536), byte (n / 256), byte n]

def be32 (n : Nat) : List Byte := be16 (n / 65536) ++ be16 n

/-- A signed four-byte field. -/
def beS32 (z : Int) : List Byte := be32 (z % 4294967296).toNat

/-- A signed five-byte field (the release step of a FLAW report, R190). -/
def beS40 (z : Int) : List Byte :=
  let n := (z % 1099511627776).toNat
  byte (n / 4294967296) :: be32 n

/-- The side code (Section 12.2). -/
def sideCode : Side → Nat
  | .a => 0
  | .b => 1

def boolCode (b : Bool) : Nat := if b then 1 else 0

def HvLevel.code : HvLevel → Nat
  | .off => 0
  | .low => 1
  | .mid => 2
  | .high => 3

def GatePurpose.code : GatePurpose → Nat
  | .detect => 0
  | .coupling => 1
  | .reference => 2

def StartMode.code : StartMode → Nat
  | .absolute => 0
  | .follow => 1

def RunState.code : RunState → Nat
  | .idle => 0
  | .running => 1
  | .stopping => 2

def StopCause.code : StopCause → Nat
  | .none => 0
  | .request => 1
  | .halt => 2
  | .rangeEnd => 3
  | .resetRun => 4
  | .resetFull => 5
  | .powerOn => 6

def DrainPhase.code : DrainPhase → Nat
  | .none => 0
  | .lists => 1
  | .release => 2

def HandlerState.code : HandlerState → Nat
  | .ready => 0
  | .awaitingReset _ _ => 1

def MotionState.code : MotionState → Nat
  | .standstill => 0
  | .reverse => 1
  | .returning => 2
  | .forward => 3

def SideState.code : SideState → Nat
  | .parked => 0
  | .lowered => 1
  | .arming => 2
  | .armed => 3
  | .fault => 4

def CouplingState.code : CouplingState → Nat
  | .unsupervised => 0
  | .unproven => 1
  | .coupled => 2
  | .doubtful => 3
  | .lost => 4

def SwapPlace.code : SwapPlace → Nat
  | .none => 0
  | .boundary => 1
  | .idleEntry => 2

def ReleaseMode.code : ReleaseMode → Nat
  | .due => 0
  | .forced => 1

def Scope.code : Scope → Nat
  | .run => 0
  | .full => 1

/-- A channel mask as its two-byte field. -/
def maskBytes (m : Mask) : List Byte := be16 m.toNat

end Sys2Proof.Machine
end

