-- ==== Sys2Proof/Machine/Plan.lean ====
section
/-! DEFINITION. The Plan Store's computations: due shots (R41), listening end (R49), duration (R50), plan time
(R51), the recomputation of R52, the effective roles (R32), executability (R33) and supervision (R93). -/
namespace Sys2Proof.Machine

/-- R41: a shot of cadence c and phase p is due at s when s mod c equals p. -/
def Shot.dueAt (sh : Shot) (step : Int) : Bool := step % (sh.cadence : Int) = (sh.phase : Int)

/-- The window end of the first REFERENCE gate of a shot (R49); 0 if there is none. -/
def referenceEnd (gates : List Gate) : Nat :=
  match gates.find? (fun g => g.purpose = .reference) with
  | some g => g.start + g.width
  | none => 0

/-- R49: the window end of a gate for the listening end. -/
def Gate.windowEnd (gates : List Gate) (g : Gate) : Nat :=
  match g.mode with
  | .absolute => g.start + g.width
  | .follow => min Config.traceEnd (referenceEnd gates + g.start + g.width)

/-- R49: the listening end of a shot, in TU. -/
def listeningEnd (gates : List Gate) : Nat :=
  gates.foldl (fun m g => max m (g.windowEnd gates)) 0

/-- R50: the duration of a shot, in µs. -/
def Shot.durationWith (sh : Shot) (p : Profile) : Nat :=
  (p.preTrigger + p.pulse + listeningEnd sh.gates + (Config.tuPerUs - 1)) / Config.tuPerUs + p.recovery

/-- R51: the sum of the durations of the shots due at the steps of residue `r`. -/
def residueTime (shots : List PlannedShot) (r : Nat) : Nat :=
  ((shots.filter (fun p => p.shot.dueAt (r : Int))).map (fun p => p.duration)).sum

/-- R51: the plan time of a list. -/
def planTimeOf (shots : List PlannedShot) : Nat :=
  max (max (residueTime shots 0) (residueTime shots 1)) (max (residueTime shots 2) (residueTime shots 3))

/-- A list with its plan time brought up to date (R52). -/
def ShotList.ofShots (shots : List PlannedShot) : ShotList := ⟨shots, planTimeOf shots⟩

/-- R52: the list once profile `p` of its side has the values `v`: the durations of the shots that name
it and the plan time. -/
def ShotList.withProfile (l : ShotList) (p : Fin 4) (v : Profile) : ShotList :=
  .ofShots (l.shots.map (fun sh =>
    if sh.shot.profile = p then ⟨sh.shot, sh.shot.durationWith v⟩ else sh))

/-- Whether a shot of the list names profile `p` (R35). -/
def ShotList.names (l : ShotList) (p : Fin 4) : Bool := l.shots.any (fun sh => sh.shot.profile = p)

/-- R61: the indices of the shots of a list due at a step, ascending. -/
def ShotList.dueIndices (l : ShotList) (step : Int) : List Nat :=
  (l.shots.zipIdx.filter (fun q => q.1.shot.dueAt step)).map Prod.snd

/-- R93: the channels supervised under a list. -/
def ShotList.supervised (l : ShotList) : Mask :=
  maskOf (fun c => l.shots.any (fun p =>
    p.shot.rx = c && p.shot.gates.any (fun g => g.purpose = .coupling)))

/-- R40: a plan is empty when both its lists have count 0. -/
def PerSide.planEmpty (p : PerSide ShotList) : Bool := p.a.shots.isEmpty && p.b.shots.isEmpty

/-- The longer of the two plan times of a plan (R13). -/
def PerSide.longerPlanTime (p : PerSide ShotList) : Nat := max p.a.planTime p.b.planTime

/-! ## Roles -/

/-- The effective roles (R32). -/
inductive EffectiveRole where
  | off | faulted | unpaired | pe | tx | rx
deriving DecidableEq, Repr

/-- R32, order 3: whether channel `c`'s partner is configured `want`, names `c`, and has no fault. -/
def Sc.paired (sc : Sc) (c : Channel) (want : Role) : Bool :=
  let p := sc.channels[c].partner
  sc.channels[p].role = want && sc.channels[p].partner = c && sc.faults[p] = .none

/-- R32: the effective role of a channel; the first row whose condition holds. -/
def Sc.effectiveRole (sc : Sc) (c : Channel) : EffectiveRole :=
  if sc.channels[c].role = .off then .off
  else if sc.faults[c] ≠ .none then .faulted
  else match sc.channels[c].role with
    | .off => .off
    | .pe => .pe
    | .tx => if sc.paired c .rx then .tx else .unpaired
    | .rx => if sc.paired c .tx then .rx else .unpaired

/-- R33: whether a shot is executable. -/
def Sc.executable (sc : Sc) (sh : Shot) : Bool :=
  (sh.tx = sh.rx && sc.effectiveRole sh.tx = .pe) ||
    (sc.effectiveRole sh.tx = .tx && sc.effectiveRole sh.rx = .rx &&
      sc.channels[sh.tx].partner = sh.rx && sc.channels[sh.rx].partner = sh.tx)

end Sys2Proof.Machine
end

