-- ==== Sys2Proof/Machine/Distance.lean ====
section
/-! DEFINITION. The Distance Unit's computations (Chapter 1): encoder decoding, step lengths, motion, period,
FAST, and the MOTION trigger. The counts themselves are in Boundary.lean. -/
namespace Sys2Proof.Machine

/-- What an encoder input change is (R1, R2). -/
inductive EncoderChange where
  | none | forward | reverse | illegal
deriving DecidableEq, Repr

/-- The pair that follows in the table's forward direction (R1). -/
def EncoderPair.next (p : EncoderPair) : EncoderPair :=
  match p.ea, p.eb with
  | false, false => ⟨true, false⟩
  | true, false => ⟨true, true⟩
  | true, true => ⟨false, true⟩
  | false, true => ⟨false, false⟩

/-- The pair that follows in the table's reverse direction (R1). -/
def EncoderPair.previous (p : EncoderPair) : EncoderPair :=
  match p.ea, p.eb with
  | false, false => ⟨false, true⟩
  | true, false => ⟨false, false⟩
  | true, true => ⟨true, false⟩
  | false, true => ⟨true, true⟩

/-- The pair in which both inputs have changed (R2). -/
def EncoderPair.opposite (p : EncoderPair) : EncoderPair := ⟨!p.ea, !p.eb⟩

/-- R1, R2: what a change from the last pair to a new pair is under a sense. -/
def decodeEncoder (sense : Sense) (last new : EncoderPair) : EncoderChange :=
  if new = last then .none
  else if new = last.opposite then .illegal
  else if new = last.next then
    match sense with
    | .normal => .forward
    | .swapped => .reverse
  else
    match sense with
    | .normal => .reverse
    | .swapped => .forward

/-- The new pair that a forward count brings under the sense (R1). -/
def Du.forwardPair (d : Du) : EncoderPair :=
  match d.sense with
  | .normal => d.lastPair.next
  | .swapped => d.lastPair.previous

/-- The new pair that a reverse count brings under the sense (R1). -/
def Du.reversePair (d : Du) : EncoderPair :=
  match d.sense with
  | .normal => d.lastPair.previous
  | .swapped => d.lastPair.next

/-- R3: the extra count of a step under pattern k. -/
def extraCount (k : Nat) (step : Int) : Nat :=
  match k with
  | 0 => 0
  | 1 => if step % 4 = 1 then 1 else 0
  | 2 => if step % 4 = 0 ∨ step % 4 = 2 then 1 else 0
  | _ => if step % 4 = 3 then 0 else 1

/-- R3: the length of a step in counts. -/
def Du.stepLength (d : Du) (step : Int) : Nat := d.n + extraCount d.k step

/-- R13: FAST for a step period and the longer active plan time. -/
def fastOf (period : Option Nat) (planTime : Nat) : Bool :=
  match period with
  | none => false
  | some p => p < planTime

/-- R10: the motion state after a forward count. -/
def motionForward (step hwm : Int) : MotionState := if step < hwm then .returning else .forward

/-- R12: the period between two times in TU, in whole µs, held to 1 to 16,777,215. -/
def periodBetween (reference now : Nat) : Nat :=
  min Config.maxPeriod (max 1 ((now - reference) / Config.tuPerUs))

/-- R11: the time at which a standstill timer started now runs out. -/
def Du.timeoutAt (d : Du) (now : Nat) : Nat := now + d.timeout * Config.tuPerMs

/-- R12: the period unknown and the boundary reference removed, with FAST off (R13). -/
def Du.unknownPeriod (d : Du) : Du := { d with reference := none, period := none, fast := false }

/-- R12, R13: the period and FAST at a forward boundary taken at `now`. -/
def Du.boundaryPeriod (d : Du) (now planTime : Nat) : Du :=
  let p := match d.reference with
    | none => d.period
    | some r => some (periodBetween r now)
  { d with reference := some now, period := p, fast := fastOf p planTime }

/-- R14: the MOTION report's values. -/
def Du.motionReport (d : Du) : MotionReport :=
  ⟨⟨false, false, false, false⟩, d.step, d.hwm, d.period, d.motion, d.fast, d.encoderError, d.rangeEnd⟩

/-- Whether a pending MOTION report already shows ENCODER_ERROR (R2). -/
def Li.showsEncoderError (l : Li) : Bool := (l.motion.map (fun p => p.report.encoderError)).getD false

/-- Whether a pending MOTION report already shows RANGE_END (R6). -/
def Li.showsRangeEnd (l : Li) : Bool := (l.motion.map (fun p => p.report.rangeEnd)).getD false

/-- R14: the Distance Unit takes the values `d`. A change of motion state and a change of FAST are triggers;
`latch` holds the latch triggers of the event. The report shows the values after the whole event
(log 22). -/
def commitDu (latch : MotionCauses) (d : Du) (s : State) : State :=
  let causes := latch.union ⟨d.motion ≠ s.du.motion, d.fast ≠ s.du.fast, false, false⟩
  let s' := s.setDu d
  if causes.any then s'.setLi (s'.li.placeMotion causes d.motionReport) else s'

/-- No latch trigger. -/
def noLatch : MotionCauses := ⟨false, false, false, false⟩

/-- R13: FAST recomputed from the plan times of the ACTIVE slot. -/
def recomputeFast (s : State) : State :=
  commitDu noLatch { s.du with fast := fastOf s.du.period s.ps.active.longerPlanTime } s

end Sys2Proof.Machine
end

