-- ==== Sys2Proof/Machine/Flags.lean ====
section
/-! DEFINITION. Flags computed from the state: ALERT, HOLD_OUT, the supply enable pins, the fault and short
masks, and the flag bytes of replies and reports (R21, R38, R163, R186, R189, R190, R191). -/
namespace Sys2Proof.Machine

/-- R38: whether the ALERT output is asserted. -/
def alert (s : State) : Bool :=
  !s.pinReset &&
    ([Side.a, Side.b].any (fun x =>
        ((s.li.side.get x).map (fun p => p.report.mark)).getD false ||
        ((s.li.coupling.get x).map (fun p => p.report.mark)).getD false) ||
      (s.li.tx.map (fun t => t.mark)).getD false)

/-- R163, R184: whether HOLD_OUT is asserted. -/
def holdOut (s : State) : Bool := !s.pinReset && Config.heldPlaces ≤ s.li.held.length

/-- R21, R184, R191: the level on side `x`'s supply enable outputs. -/
def supplyEnable (s : State) (x : Side) : HvLevel := if s.pinReset then .off else (s.sc.get x).supply

/-- R34: the channels whose fault latch is not NONE. -/
def Sc.faultMask (c : Sc) : Mask := maskOf (fun ch => c.faults[ch] ≠ .none)

/-- R34: the channels whose fault latch is SHORTED. -/
def Sc.shortMask (c : Sc) : Mask := maskOf (fun ch => c.faults[ch] = .shorted)

/-- The bit of a side event of number 0 to 5 in the change latch set (R37); events 6 and 7 have none. -/
def SideEvent.bit : SideEvent → BitVec 6
  | .carriageDown => 1
  | .carriageUp => 2
  | .armed => 4
  | .hvFault => 8
  | .rampTimeout => 16
  | .channelFault => 32
  | .couplingLost => 0
  | .couplingRegained => 0

/-- The bit of a gap cause (R143, R190). -/
def GapCause.bit : GapCause → BitVec 5
  | .overrun => 1
  | .sideNotReady => 2
  | .channelOff => 4
  | .coupling => 8
  | .tableFull => 16

/-- A byte from flags, bit 0 first. -/
def flagByte : List Bool → Nat
  | [] => 0
  | b :: bs => (if b then 1 else 0) + 2 * flagByte bs

end Sys2Proof.Machine
end

