-- ==== Sys2Proof/Machine/Gates.lean ====
section
/-! DEFINITION. The Gate Evaluator (Chapter 5): windows, peak and first crossing, conditions and results. -/
namespace Sys2Proof.Machine

/-- R78: the echo trace as delivered: one sample for each time of flight below the listening end, none
above full scale. A time of flight for which the command brings no sample holds 0 (log 15). -/
def deliveredTrace (trace : List Nat) (listening : Nat) : List Nat :=
  (trace.take listening).map (fun v => min v Config.fullScale) ++
    List.replicate (listening - trace.length) 0

/-- The samples of the window [start, stop). -/
def window (trace : List Nat) (start stop : Nat) : List Nat := (trace.drop start).take (stop - start)

/-- The greatest sample of the window and the time of flight of the first sample that has it, `t` being the
time of flight of the next sample and `best` what has been found so far. -/
def peakFrom : List Nat → Nat → Measurement → Measurement
  | [], _, best => best
  | v :: vs, t, best => if best.peak < v then peakFrom vs (t + 1) ⟨v, t⟩ else peakFrom vs (t + 1) best

/-- R84: the peak of the window that begins at `start`. A window whose samples are all 0 has peak 0 at its
first sample. -/
def measure (samples : List Nat) (start : Nat) : Measurement := peakFrom samples start ⟨0, start⟩

/-- R85: a measurement is saturated when its peak is 200. -/
def Measurement.saturated (m : Measurement) : Bool := m.peak = Config.fullScale

/-- R81: the first sample of the window that reaches the threshold, as a time of flight. -/
def firstCrossing : List Nat → Nat → Nat → Option Nat
  | [], _, _ => none
  | v :: vs, t, threshold => if threshold ≤ v then some t else firstCrossing vs (t + 1) threshold

/-- R86: whether a condition holds on a peak. -/
def Condition.holds (c : Condition) (t1 t2 p : Nat) : Bool :=
  match c with
  | .above => t1 ≤ p
  | .below => p < t1
  | .inside => t1 ≤ p && p < t2
  | .outside => p < t1 || t2 ≤ p

/-- The condition of a gate. WRITE_SHOT stores one of the four codes in every gate that uses it (R44). -/
def Gate.condition (g : Gate) : Condition := (conditionOfCode g.conditionCode.toNat).getD .above

/-- R80, R82, R83: the window of a DETECT or COUPLING gate, given the shot's first crossing; none when the
gate is not placed. -/
def Gate.placedWindow (g : Gate) (crossing : Option Nat) : Option (Nat × Nat) :=
  match g.mode with
  | .absolute => some (g.start, g.start + g.width)
  | .follow =>
    match crossing with
    | none => none
    | some c =>
      if Config.traceEnd ≤ c + g.start then none
      else some (c + g.start, min (c + g.start + g.width) Config.traceEnd)

/-- R83, R84, R86: the result kind of a DETECT or COUPLING gate. -/
def Gate.kind (g : Gate) (trace : List Nat) (crossing : Option Nat) : ResultKind :=
  match g.placedWindow crossing with
  | none => .unevaluated
  | some (a, b) =>
    let m := measure (window trace a b) a
    if g.condition.holds g.t1 g.t2 m.peak then .hit m else .miss m

/-- R87: a result record. A REFERENCE gate's carries its first crossing, absent on a MISS. -/
inductive GateResult where
  | detect (gate : Nat) (kind : ResultKind)
  | coupling (gate : Nat) (kind : ResultKind)
  | reference (gate : Nat) (crossing : Option Nat)
deriving DecidableEq, Repr

/-- R79: the results of a shot's gates in ascending gate number; `crossing` is the first crossing found so
far. -/
def evaluateFrom (trace : List Nat) : List Gate → Nat → Option Nat → List GateResult
  | [], _, _ => []
  | g :: gs, n, crossing =>
    match g.purpose with
    | .reference =>
      let c := firstCrossing (window trace g.start (g.start + g.width)) g.start g.t1
      .reference n c :: evaluateFrom trace gs (n + 1) c
    | .detect => .detect n (g.kind trace crossing) :: evaluateFrom trace gs (n + 1) crossing
    | .coupling => .coupling n (g.kind trace crossing) :: evaluateFrom trace gs (n + 1) crossing

/-- R79: the evaluation of a shot. -/
def evaluateGates (trace : List Nat) (gates : List Gate) : List GateResult := evaluateFrom trace gates 0 none

/-- R88: the DETECT results of a shot. -/
def detectResults (rs : List GateResult) : List DetectResult :=
  rs.filterMap (fun r => match r with
    | .detect g k => some ⟨g, k⟩
    | .coupling _ _ => none
    | .reference _ _ => none)

/-- R89: the COUPLING result of a shot, if it has a COUPLING gate: whether the coupling is good. -/
def couplingGood (rs : List GateResult) : Option Bool :=
  rs.findSome? (fun r => match r with
    | .coupling _ (.hit _) => some true
    | .coupling _ (.miss _) => some false
    | .coupling _ .unevaluated => some false
    | .detect _ _ => none
    | .reference _ _ => none)

end Sys2Proof.Machine
end

