-- ==== Sys2Proof/Machine/Tracker.lean ====
section
/-! DEFINITION. The Indication Tracker: claims, the classes of a step evaluation, closing tests and closures
(Chapter 7), zones (Section 7.3), and clusters with their formation, sealing and release (Chapter 8). -/
namespace Sys2Proof.Machine

/-- The 64 entries, ascending. -/
def allEntries : List (Fin 64) := List.finRange 64

/-! ## The Indication Table -/

/-- The side of an entry in use (R103). -/
def TableEntry.side? : TableEntry → Option Side
  | .free => none
  | .opened i _ => some i.side
  | .held i _ => some i.side

/-- R103: OPEN or HELD. -/
def TableEntry.inUse (e : TableEntry) : Bool := e.side?.isSome

/-- Whether an entry is OPEN and of side `x` (R125). -/
def TableEntry.openOf (x : Side) : TableEntry → Bool
  | .opened i _ => i.side = x
  | .free => false
  | .held _ _ => false

/-- Whether an entry is HELD and of side `x` (R125). -/
def TableEntry.heldOf (x : Side) : TableEntry → Bool
  | .held i _ => i.side = x
  | .free => false
  | .opened _ _ => false

/-- Replace one entry. -/
def It.setEntry (t : It) (i : Fin 64) (e : TableEntry) : It := { t with table := t.table.set i e }

/-- Replace every entry by a function of its number and itself. -/
def It.mapTable (t : It) (f : Fin 64 → TableEntry → TableEntry) : It :=
  { t with table := Vector.ofFn (fun i => f i t.table[i]) }

/-- How many entries meet a test. -/
def It.count (t : It) (f : TableEntry → Bool) : Nat := allEntries.countP (fun i => f t.table[i])

/-- The entries in use by side `x`, OPEN and HELD together (R106). -/
def It.usedBy (t : It) (x : Side) : Nat := t.count (fun e => e.side? = some x)

/-- Whether no entry is in use (R138, R179). -/
def It.empty (t : It) : Bool := allEntries.all (fun i => !t.table[i].inUse)

/-- R105: the OPEN indication of a key, with its entry and miss run. -/
def It.findOpen (t : It) (x : Side) (shot gate : Nat) : Option (Fin 64 × Indication × Nat) :=
  allEntries.findSome? (fun i =>
    match t.table[i] with
    | .opened ind run => if ind.side = x && ind.shot = shot && ind.gate = gate then some (i, ind, run) else none
    | .free => none
    | .held _ _ => none)

/-- R106: the entry that a claim of side `x` takes, if it is not refused. -/
def It.claim (t : It) (x : Side) : Option (Fin 64) :=
  if t.usedBy x < t.settings.cap.get x then allEntries.find? (fun i => t.table[i] = .free) else none

/-! ## Zones -/

/-- R118: whether a zone covers a channel at a fire step under an offset. -/
def Zone.covers (z : Zone) (offset step : Int) (c : Channel) : Bool :=
  z.enable && z.channels.getLsbD c.val && z.start ≤ step + offset && step + offset ≤ z.stop

/-- R119: the zone outcome of a channel. -/
def zoneOutcome (zones : Vector Zone 8) (offset step : Int) (c : Channel) : ZoneOutcome :=
  let covering := zones.toList.filter (fun z => z.covers offset step c)
  if covering.any (fun z => z.action = .mask) then .masked
  else match covering with
    | [] => .clear
    | z :: _ => .tagged z.kind

/-- R120: the zone verdict of a fire step for side `x`. -/
def It.verdict (t : It) (x : Side) (step : Int) : Verdict :=
  ⟨step, Vector.ofFn (fun c => zoneOutcome (t.zones.get x) t.offset step c)⟩

/-- R120: append the verdicts of a fire step for both sides. -/
def It.appendVerdicts (t : It) (step : Int) : It :=
  { t with verdicts := ⟨t.verdicts.a ++ [t.verdict .a step], t.verdicts.b ++ [t.verdict .b step]⟩ }

/-! ## The gates of a step evaluation -/

/-- The kind a TAGGED outcome gives (R121). -/
def ZoneOutcome.kind? : ZoneOutcome → Option Nat
  | .tagged k => some k
  | .clear => none
  | .masked => none

/-- R109: an indication extended by a hit at a step. -/
def Indication.extend (i : Indication) (step : Int) (m : Measurement) (z : ZoneOutcome) : Indication :=
  { i with
    last := step
    hits := i.hits + 1
    peak := if i.peak < m.peak then m.peak else i.peak
    peakStep := if i.peak < m.peak then step else i.peakStep
    peakTof := if i.peak < m.peak then m.tof else i.peakTof
    tofMin := min i.tofMin m.tof
    tofMax := max i.tofMax m.tof
    zoneKind := match i.zoneKind with
      | some k => some k
      | none => z.kind?
    flags := { i.flags with saturated := i.flags.saturated || m.saturated } }

/-- R110: the indication that a hit opens. -/
def Indication.start (x : Side) (e : OutcomeEntry) (gate : Nat) (generation : BitVec 16) (step : Int)
    (m : Measurement) (z : ZoneOutcome) : Indication where
  side := x
  shot := e.shot
  gate := gate
  tx := e.tx
  rx := e.rx
  generation := generation
  first := step
  last := step
  hits := 1
  peak := m.peak
  peakStep := step
  peakTof := m.tof
  tofMin := m.tof
  tofMax := m.tof
  zoneKind := z.kind?
  flags := ⟨false, m.saturated, false, false, false⟩

/-- What stays fixed through one step evaluation: side, step, generation in force, zone verdict. -/
structure EvalContext where
  side : Side
  step : Int
  generation : BitVec 16
  verdict : Verdict

/-- The class of a DETECT gate (R108). -/
inductive GateClass where
  | masked | skipped | miss
  | hit (m : Measurement)
deriving DecidableEq, Repr

/-- R108: the class of gate `gate` of an outcome entry; the first row whose condition holds. -/
def gateClass (z : ZoneOutcome) (e : OutcomeEntry) (gate : Nat) : GateClass :=
  if z = .masked then .masked
  else match e.outcome with
    | .skipped _ => .skipped
    | .completed true _ => .skipped
    | .completed false results =>
      match results.find? (fun r => r.gate = gate) with
      | some ⟨_, .hit m⟩ => .hit m
      | some ⟨_, .miss _⟩ => .miss
      | some ⟨_, .unevaluated⟩ => .miss
      | none => .miss

/-- R108 to R112: apply one DETECT gate; the Bool tells that a claim was refused (R106). -/
def It.applyGate (t : It) (c : EvalContext) (e : OutcomeEntry) (gate : Nat) : It × Bool :=
  match gateClass c.verdict.outcomes[e.rx] e gate with
  | .masked => (t, false)
  | .skipped =>
    match t.findOpen c.side e.shot gate with
    | some (i, ind, run) =>
      (t.setEntry i (.opened { ind with flags := { ind.flags with interrupted := true } } (run + 1)), false)
    | none => (t, false)
  | .miss =>
    match t.findOpen c.side e.shot gate with
    | some (i, ind, run) => (t.setEntry i (.opened ind (run + 1)), false)
    | none => (t, false)
  | .hit m =>
    match t.findOpen c.side e.shot gate with
    | some (i, ind, _) => (t.setEntry i (.opened (ind.extend c.step m c.verdict.outcomes[e.rx]) 0), false)
    | none =>
      match t.claim c.side with
      | some i =>
        (t.setEntry i (.opened (.start c.side e gate c.generation c.step m c.verdict.outcomes[e.rx]) 0), false)
      | none => (t, true)

/-- The indices of a shot's DETECT gates, ascending. -/
def Shot.detectGates (sh : Shot) : List Nat :=
  (sh.gates.zipIdx.filter (fun q => q.1.purpose = .detect)).map Prod.snd

/-- R108: the DETECT gates of shot `i` of a list. -/
def ShotList.detectGates (l : ShotList) (i : Nat) : List Nat :=
  match l.shots[i]? with
  | some p => p.shot.detectGates
  | none => []

/-- The channels of an outcome entry (R70, R143). -/
def OutcomeEntry.channels (e : OutcomeEntry) : Mask := channelBit e.tx ||| channelBit e.rx

/-- R108: apply the DETECT gates of one entry in ascending gate index; the mask gathers the channels of
refused claims (R106, TABLE_FULL). -/
def It.applyGates (c : EvalContext) (e : OutcomeEntry) : List Nat → It × Mask → It × Mask
  | [], p => p
  | g :: gs, (t, full) =>
    let r := t.applyGate c e g
    It.applyGates c e gs (r.1, if r.2 then full ||| e.channels else full)

/-- R108: apply the entries of a record in due-list order; the gates of a shot are read from the active
list. -/
def It.applyEntries (c : EvalContext) (list : ShotList) : List OutcomeEntry → It × Mask → It × Mask
  | [], p => p
  | e :: es, p =>
    It.applyEntries c list es (It.applyGates c e (list.detectGates e.shot) p)

/-! ## Clusters -/

/-- The tracker together with the link, where the flaw queue stands: what closures, formation and release
work on. -/
structure Track where
  it : It
  li : Li

/-- R128: the heads, ascending, with what each holds. -/
def It.heads (t : It) : List (Fin 64 × Indication × Cluster) :=
  allEntries.filterMap (fun i =>
    match t.table[i] with
    | .held ind ⟨_, _, some c⟩ => some (i, ind, c)
    | .held _ ⟨_, _, none⟩ => none
    | .free => none
    | .opened _ _ => none)

/-- Whether an entry is HELD under head `h`. -/
def TableEntry.memberOf (h : Fin 64) : TableEntry → Bool
  | .held _ m => m.head = h
  | .free => false
  | .opened _ _ => false

/-- R129: the test of closeness of a member and a joiner under the window `w`. -/
def near (w : Nat) (m j : Indication) : Bool := m.first - w ≤ j.last && j.first ≤ m.last + w

/-- Whether some member of head `h` is near the joiner (R129). -/
def It.anyNear (t : It) (h : Fin 64) (j : Indication) : Bool :=
  allEntries.any (fun i =>
    match t.table[i] with
    | .held ind m => m.head = h && near t.settings.window ind j
    | .free => false
    | .opened _ _ => false)

/-- R129: the candidates of a joiner, ascending by head. -/
def It.candidates (t : It) (j : Indication) : List (Fin 64 × Cluster) :=
  (t.heads.filter (fun q => q.2.1.side = j.side && q.2.1.generation = j.generation &&
    q.2.2.sealedAs = none && t.anyNear q.1 j)).map (fun q => (q.1, q.2.2))

/-- R139: the strongest member, as a join order; `k` is the join order of the next member. -/
def strongestFrom : List Indication → Nat → Nat × Nat → Nat
  | [], _, best => best.1
  | i :: is, k, best => strongestFrom is (k + 1) (if best.2 < i.peak then (k, i.peak) else best)

/-- R128: the member of head `h` whose join order is `k + 1`. -/
def It.memberAt (t : It) (h : Fin 64) (k : Nat) : Option Indication :=
  allEntries.findSome? (fun i =>
    match t.table[i] with
    | .held ind m => if m.head = h && m.order = k + 1 then some ind else none
    | .free => none
    | .opened _ _ => none)

/-- R140: the members of a cluster in ascending join order. -/
def It.membersInOrder (t : It) (h : Fin 64) (count : Nat) : List Indication :=
  (List.range count).filterMap (t.memberAt h)

/-- R139, R140: the FLAW report of a cluster as it stands. -/
def It.flawReport (t : It) (hwm : Int) (h : Fin 64) (ind : Indication) (c : Cluster) : FlawReport :=
  let ms := t.membersInOrder h c.count
  { side := ind.side
    generation := ind.generation
    first := ms.foldl (fun m i => min m i.first) ind.first
    last := ms.foldl (fun m i => max m i.last) ind.last
    release := c.release
    mode := c.sealedAs.getD .due
    hwm := hwm
    strongest := match ms with
      | [] => 1
      | i :: is => strongestFrom is 2 (1, i.peak)
    members := ms }

/-- R134: the front of the release line: the sealed cluster of least release step, and among equals of
least head. -/
def It.front (t : It) : Option (Fin 64 × Indication × Cluster) :=
  (t.heads.filter (fun q => q.2.2.sealedAs.isSome)).foldl (fun best q =>
    match best with
    | none => some q
    | some b => if q.2.2.release < b.2.2.release then some q else some b) none

/-- R135: the release of one cluster: its FLAW report joins the queue and its entries become FREE. -/
def Track.release (hwm : Int) (h : Fin 64) (ind : Indication) (c : Cluster) (k : Track) : Track where
  it := k.it.mapTable (fun i e => if i = h || e.memberOf h then .free else e)
  li := k.li.appendFlaw (k.it.flawReport hwm h ind c)

/-- R135: the release of the cluster first in the line, if the flaw queue has a free place. -/
def Track.releaseFront (hwm : Int) (k : Track) : Track :=
  match k.it.front with
  | none => k
  | some (h, ind, c) =>
    if k.li.flawQueue.length < Config.flawPlaces then k.release hwm h ind c else k

/-- R135: clusters leave one after another for as long as the queue has a free place; at most 64 can be
in the line. -/
def Track.releaseLoop (hwm : Int) : Nat → Track → Track
  | 0, k => k
  | n + 1, k => Track.releaseLoop hwm n (k.releaseFront hwm)

/-- R135: all that leave at this moment. -/
def Track.releaseAll (hwm : Int) (k : Track) : Track := k.releaseLoop hwm 64

/-- R130: the joiner at entry `j` starts a cluster, which is sealed at once when it is already due. -/
def Track.startCluster (hwm : Int) (j : Fin 64) (ind : Indication) (k : Track) : Track :=
  let release := ind.last + k.it.settings.window
  let due := release < hwm
  let it := k.it.setEntry j (.held ind ⟨j, 1, some ⟨release, 1, if due then some .due else none⟩⟩)
  if due then Track.releaseAll hwm { k with it := it } else { k with it := it }

/-- Give the head `h` new cluster fields. -/
def It.setCluster (t : It) (h : Fin 64) (c : Cluster) : It :=
  match t.table[h] with
  | .held ind m => t.setEntry h (.held ind { m with cluster := some c })
  | .free => t
  | .opened _ _ => t

/-- R131: the joiner at entry `j` joins the cluster of head `h`. -/
def It.join (t : It) (j : Fin 64) (ind : Indication) (h : Fin 64) (c : Cluster) : It :=
  (t.setEntry j (.held ind ⟨h, c.count + 1, none⟩)).setCluster h
    ⟨max c.release (ind.last + t.settings.window), c.count + 1, none⟩

/-- R132, steps 1, 2 and 5: the members of the candidates become members of head `h`, numbered on from
`base`; no head among them keeps cluster fields. -/
def It.regroup (h : Fin 64) : List (Fin 64 × Cluster) → Nat → It → It
  | [], _, t => t
  | (c, k) :: cs, base, t =>
    It.regroup h cs (base + k.count) (t.mapTable (fun _ e =>
      match e with
      | .held ind m => if m.head = c then .held ind ⟨h, base + m.order, none⟩ else e
      | .free => e
      | .opened _ _ => e))

/-- The sum of the member counts of candidates (R132). -/
def countSum (cs : List (Fin 64 × Cluster)) : Nat := (cs.map (fun q => q.2.count)).sum

/-- The greatest of a step and the candidates' release steps (R132). -/
def releaseMax (cs : List (Fin 64 × Cluster)) (r : Int) : Int := cs.foldl (fun m q => max m q.2.release) r

/-- R132: the candidates, of which `h` is the lowest head, merge, and the joiner at entry `j` joins. The
member orders of the surviving cluster are kept, since its base is 0. -/
def It.merge (t : It) (j : Fin 64) (ind : Indication) (h : Fin 64) (cs : List (Fin 64 × Cluster)) : It :=
  let t' := It.regroup h cs 0 t
  (t'.setEntry j (.held ind ⟨h, countSum cs + 1, none⟩)).setCluster h
    ⟨releaseMax cs (ind.last + t.settings.window), countSum cs + 1, none⟩

/-- R129 to R132: cluster formation for the newly HELD indication at entry `j`. -/
def Track.form (hwm : Int) (j : Fin 64) (ind : Indication) (k : Track) : Track :=
  match k.it.candidates ind with
  | [] => k.startCluster hwm j ind
  | [(h, c)] =>
    if c.count < Config.clusterMembers then { k with it := k.it.join j ind h c }
    else k.startCluster hwm j ind
  | (h, c) :: d :: ds =>
    if countSum ((h, c) :: d :: ds) + 1 ≤ Config.clusterMembers then
      { k with it := k.it.merge j ind h ((h, c) :: d :: ds) }
    else
      match ((h, c) :: d :: ds).find? (fun q => q.2.count < Config.clusterMembers) with
      | some (h', c') => { k with it := k.it.join j ind h' c' }
      | none => k.startCluster hwm j ind

/-- R134: every unsealed cluster whose release step lies below the high-water mark is sealed. -/
def It.sealDue (t : It) (hwm : Int) : It :=
  t.mapTable (fun _ e =>
    match e with
    | .held ind ⟨h, o, some ⟨r, n, none⟩⟩ =>
      if r < hwm then .held ind ⟨h, o, some ⟨r, n, some .due⟩⟩ else e
    | _ => e)

/-- R138, step 1: every unsealed cluster is sealed with mode FORCED. -/
def It.sealForced (t : It) : It :=
  t.mapTable (fun _ e =>
    match e with
    | .held ind ⟨h, o, some ⟨r, n, none⟩⟩ => .held ind ⟨h, o, some ⟨r, n, some .forced⟩⟩
    | _ => e)

/-! ## Closures -/

/-- R114: the OPEN indication at entry `i` is closed, with the fields `ind`: freed below the minimum hits,
else handed to cluster formation. -/
def Track.close (hwm : Int) (i : Fin 64) (ind : Indication) (k : Track) : Track :=
  if ind.hits < k.it.settings.minHits then { k with it := k.it.setEntry i .free } else k.form hwm i ind

/-- R113: the closing test of entry `i` at the evaluation of a step of side `x`. -/
def Track.closeTest (hwm : Int) (x : Side) (step : Int) (k : Track) (i : Fin 64) : Track :=
  match k.it.table[i] with
  | .opened ind run =>
    if ind.side = x then
      if k.it.settings.bridge < run then k.close hwm i ind
      else if (k.it.settings.maxLength : Int) ≤ step - ind.first + 1 then
        k.close hwm i { ind with flags := { ind.flags with long := true } }
      else k
    else k
  | .free => k
  | .held _ _ => k

/-- R116, R117: close entry `i`, if it is OPEN, with a flag of its cause. -/
def Track.closeWith (hwm : Int) (mark : IndicationFlags → IndicationFlags) (k : Track) (i : Fin 64) : Track :=
  match k.it.table[i] with
  | .opened ind _ => k.close hwm i { ind with flags := mark ind.flags }
  | .free => k
  | .held _ _ => k

/-- R116: PLAN_CHANGE. -/
def markPlanChange (f : IndicationFlags) : IndicationFlags := { f with planChange := true }

/-- R117: TRUNCATED. -/
def markTruncated (f : IndicationFlags) : IndicationFlags := { f with truncated := true }

/-- R116, R117: close every OPEN indication of both sides in ascending entry number. -/
def Track.closeAll (hwm : Int) (mark : IndicationFlags → IndicationFlags) (k : Track) : Track :=
  allEntries.foldl (Track.closeWith hwm mark) k

/-- R108 to R114: the tracker's part of a step evaluation; the mask holds the TABLE_FULL channels. -/
def Track.evaluate (hwm : Int) (c : EvalContext) (list : ShotList) (entries : List OutcomeEntry) (k : Track) :
    Track × Mask :=
  let p := It.applyEntries c list entries (k.it, 0)
  (allEntries.foldl (Track.closeTest hwm c.side c.step) { k with it := p.1 }, p.2)

/-! ## The tracker in the whole state -/

/-- The tracker and link of a state. -/
def State.track (s : State) : Track := ⟨s.it, s.li⟩

/-- The state with a tracker and link. -/
def State.setTrack (s : State) (k : Track) : State := { s with it := k.it, li := k.li }

/-- R135, R136: release what can leave. -/
def releaseClusters (s : State) : State := s.setTrack (s.track.releaseAll s.du.hwm)

end Sys2Proof.Machine
end

