-- ==== Sys2Proof/Machine/Gaps.lean ====
section
/-! DEFINITION. The Gap Recorder (Chapter 9): the causes of a step, open gaps, and their closing into the GAP
slot. -/
namespace Sys2Proof.Machine

/-- The skip cause of an outcome entry (R70). -/
def ShotOutcome.cause? : ShotOutcome → Option GapCause
  | .skipped c => some c
  | .completed true _ => some .coupling
  | .completed false _ => none

/-- R144: the channels of the entries whose skip cause is `c`. -/
def causeChannels (entries : List OutcomeEntry) (c : GapCause) : Mask :=
  entries.foldl (fun m e => if e.outcome.cause? = some c then m ||| e.channels else m) 0#12

/-- R144: the channel set of a cause at a step; TABLE_FULL comes from the tracker. -/
def stepCause (entries : List OutcomeEntry) (tableFull : Mask) : GapCause → Mask
  | .overrun => causeChannels entries .overrun
  | .sideNotReady => causeChannels entries .sideNotReady
  | .channelOff => causeChannels entries .channelOff
  | .coupling => causeChannels entries .coupling
  | .tableFull => tableFull

/-- R145: the open gap of a cause present at a step with these channels. -/
def extendGap (step : Int) (channels : Mask) : Option Gap → Gap
  | none => ⟨step, step, channels⟩
  | some g => { g with last := step, channels := g.channels ||| channels }

/-- R145: take one cause present at the step; an absent one is left. -/
def Gr.present (step : Int) (causes : GapCause → Mask) (g : Gr) (c : GapCause) : Gr :=
  if causes c = 0 then g else ⟨g.gaps.set c (some (extendGap step (causes c) (g.gaps.get c)))⟩

/-- A closed gap as a range of its own (R148). -/
def Gap.range (g : Gap) (c : GapCause) (drain : Bool) : GapRange :=
  ⟨g.first, g.last, c.bit, g.channels, 1, drain⟩

/-- The recorder of one side with the link, where its GAP slot stands. -/
structure Recorder where
  gr : Gr
  li : Li

/-- R146, R151: close the open gap of a cause, if there is one, into side `x`'s GAP slot. -/
def Recorder.closeGap (x : Side) (drain : Bool) (r : Recorder) (c : GapCause) : Recorder :=
  match r.gr.gaps.get c with
  | none => r
  | some g => ⟨⟨r.gr.gaps.set c none⟩, r.li.placeGap x (g.range c drain)⟩

/-- R146: take one cause absent at the step. -/
def Recorder.absent (x : Side) (causes : GapCause → Mask) (r : Recorder) (c : GapCause) : Recorder :=
  if causes c = 0 then r.closeGap x false c else r

/-- R144 to R146: the recorder's part of a step evaluation. -/
def Recorder.evaluate (x : Side) (step : Int) (causes : GapCause → Mask) (r : Recorder) : Recorder :=
  gapCauses.foldl (Recorder.absent x causes)
    { r with gr := gapCauses.foldl (Gr.present step causes) r.gr }

/-- R151: close every open gap at the drain, in ascending cause number. -/
def Recorder.drain (x : Side) (r : Recorder) : Recorder := gapCauses.foldl (Recorder.closeGap x true) r

/-- The recorder of side `x` with the link. -/
def State.recorder (s : State) (x : Side) : Recorder := ⟨s.gr.get x, s.li⟩

/-- The state with side `x`'s recorder and the link. -/
def State.setRecorder (s : State) (x : Side) (r : Recorder) : State := { s with gr := s.gr.set x r.gr, li := r.li }

/-- Whether no gap of a recorder is open. -/
def Gr.noneOpen (g : Gr) : Bool := gapCauses.all (fun c => (g.gaps.get c).isNone)

/-- R151: one side's drain closure. -/
def drainGaps (x : Side) (s : State) : State := s.setRecorder x ((s.recorder x).drain x)

/-- R179, step 1: each Gap Recorder closes every open gap. Which one is first shows in the ordinals only when
both have to create a GAP report; the spec does not say, so the free value does (log 7). -/
def drainBothGaps (s : State) : State :=
  if !(s.gr.get .a).noneOpen && !(s.gr.get .b).noneOpen && s.li.gap.a.isNone && s.li.gap.b.isNone then
    if Config.drainSideAFirst s.free then { drainGaps .b (drainGaps .a s) with free := s.free + 1 }
    else { drainGaps .a (drainGaps .b s) with free := s.free + 1 }
  else drainGaps .b (drainGaps .a s)

end Sys2Proof.Machine
end

