-- ==== Sys2Proof/Machine/Coupling.lean ====
section
/-! DEFINITION. The Coupling Supervisor's settings of its channels (R93, R97 to R99), the plan swap (R54), and
channel records taking effect (R31). -/
namespace Sys2Proof.Machine

/-- R97, R99: the rating of a channel set afresh: UNPROVEN if supervised, UNSUPERVISED otherwise. -/
def freshRating (supervised : Mask) (c : Channel) : ChannelCoupling :=
  if supervised.getLsbD c.val then ⟨.unproven, 0, 0⟩ else ⟨.unsupervised, 0, 0⟩

/-- R97: every channel set afresh at START_RUN, the supervised set recomputed from the ACTIVE list. -/
def Cs.startRun (l : ShotList) : Cs := ⟨Vector.ofFn (freshRating l.supervised), l.supervised⟩

/-- R98: the set recomputed at a swap; a channel supervised before and after keeps its rating. -/
def Cs.swap (l : ShotList) (c : Cs) : Cs :=
  ⟨Vector.ofFn (fun ch =>
      if c.supervised.getLsbD ch.val && l.supervised.getLsbD ch.val then c.ratings[ch]
      else freshRating l.supervised ch),
    l.supervised⟩

/-- R99: one channel set afresh when its record takes effect. -/
def Cs.refresh (ch : Channel) (c : Cs) : Cs := { c with ratings := c.ratings.set ch (freshRating c.supervised ch) }

/-- R54: the swap of the plan slots. -/
def swapPlans (s : State) : State :=
  let s1 := s.setPs
    { active := s.ps.staged, staged := s.ps.active, generation := s.ps.generation + 1, swapPending := false }
  let s2 := recomputeFast s1
  let s3 := s2.setCs .a ((s2.cs.get .a).swap (s2.ps.active.get .a))
  s3.setCs .b ((s3.cs.get .b).swap (s3.ps.active.get .b))

/-- R31: channel `ch`'s pending record, if any, takes effect; the roles follow (R32) and its coupling is
set afresh (R99). -/
def recordTakesEffect (x : Side) (s : State) (ch : Channel) : State :=
  match (s.sc.get x).pendingRecords[ch] with
  | none => s
  | some r =>
    let s' := s.modifySc x (fun sc =>
      { sc with channels := sc.channels.set ch r, pendingRecords := sc.pendingRecords.set ch none })
    s'.setCs x ((s'.cs.get x).refresh ch)

/-- R31: all pending records of both sides, one channel at a time. -/
def recordsTakeEffect (s : State) : State :=
  allChannels.foldl (recordTakesEffect .b) (allChannels.foldl (recordTakesEffect .a) s)

end Sys2Proof.Machine
end

