-- ==== Sys2Proof/Machine/RunControl.lean ====
section
/-! DEFINITION. Run Control (Section 11.3): the beginning of a stop, the two phases of the drain and its end,
and the dispositions of side events, which may begin a stop (R36, R100). -/
namespace Sys2Proof.Machine

/-- Cause sets with one bit (R180). -/
def causeStart : RunCauses := ⟨true, false, false, false, false⟩
def causeStop : RunCauses := ⟨false, true, false, false, false⟩
def causeIdle : RunCauses := ⟨false, false, true, false, false⟩
def causeSwap : RunCauses := ⟨false, false, false, true, false⟩
def causeIdleSwap : RunCauses := ⟨false, false, true, true, false⟩
def causeReset : RunCauses := ⟨false, false, false, false, true⟩

/-- Whether a Shot Engine is IDLE with no step record left to evaluate. -/
def Se.isIdle (e : Se) : Bool := e.firing.isNone && e.finished.isEmpty

/-- Whether both Shot Engines are IDLE. -/
def enginesIdle (s : State) : Bool := (s.se.get .a).isIdle && (s.se.get .b).isIdle

/-- R179: the end of the drain, in its order: gaps, run state, pending swap (R57), pending records, RUNSTATE. -/
def drainEnd (s : State) : State :=
  let s1 := drainBothGaps s
  let s2 := s1.setRc { s1.rc with run := .idle, drain := .none }
  let swapped := s2.ps.swapPending
  let s3 := if swapped then swapPlans s2 else s2
  let s4 := recordsTakeEffect s3
  if swapped then placeRunstate causeIdleSwap (some (s4.du.hwm, .idleEntry)) s4
  else placeRunstate causeIdle none s4

/-- R138, R178: whether the release of the drain is complete. -/
def drainComplete (s : State) : Bool :=
  s.rc.run = .stopping && s.rc.drain = .release && s.it.empty && enginesIdle s

/-- R179: the drain ends when its release is complete. -/
def drainEndTest (s : State) : State := if drainComplete s then drainEnd s else s

/-- R138: the forced release, after the closures. -/
def forcedRelease (s : State) : State := releaseClusters (s.setIt s.it.sealForced)

/-- R178: the drain passes to RELEASE: OPEN indications close with TRUNCATED (R117), the forced release is made
(R138), and the drain ends at once if nothing is left (R176). -/
def releasePhase (s : State) : State :=
  let s1 := s.setRc { s.rc with drain := .release }
  let s2 := s1.setTrack (s1.track.closeAll s1.du.hwm markTruncated)
  drainEndTest (forcedRelease s2)

/-- R178: whether the drain waits in LISTS with both engines IDLE. -/
def listsDone (s : State) : Bool := s.rc.run = .stopping && s.rc.drain = .lists && enginesIdle s

/-- R176, R178: the test of the drain. -/
def drainTest (s : State) : State := if listsDone s then releasePhase s else s

/-- R176: a stop is begun in RUNNING; in another run state nothing is begun (R174). -/
def beginStop (cause : StopCause) (s : State) : State :=
  if s.rc.run = .running then
    drainTest (placeRunstate causeStop none (s.setRc { s.rc with run := .stopping, cause := cause, drain := .lists }))
  else s

/-- Apply a disposition (R36, R100): `place` puts the event into its report, with the alert mark or without. -/
def dispose (d : Disposition) (place : Bool → Li → Li) (s : State) : State :=
  match d with
  | .ignore => s
  | .report => s.setLi (place false s.li)
  | .alert => s.setLi (place true s.li)
  | .halt => beginStop .halt (s.setLi (place true s.li))

/-- R36: a side event of number 0 to 5 is raised. -/
def raiseSide (x : Side) (e : SideEvent) (s : State) : State :=
  dispose ((s.sc.get x).dispositions.get e) (Li.placeSide x e.bit) s

/-- R100: COUPLING_LOST or COUPLING_REGAINED is raised for a channel. -/
def raiseCoupling (x : Side) (e : SideEvent) (ch : Channel) (s : State) : State :=
  dispose ((s.sc.get x).dispositions.get e) (Li.placeCoupling x ch) s

end Sys2Proof.Machine
end

