-- ==== Sys2Proof/Machine/Engine.lean ====
section
/-! DEFINITION. The Shot Engine (Chapter 4) with what a completion passes on: load faults (R34), coupling results
(R95), the step evaluation (R72), the end of the list and its abort (R74). The meanings of SHOT_COMPLETION,
STEP_EVALUATION, CLUSTER_RELEASE, DRAIN_RELEASE_PHASE and DRAIN_END. -/
namespace Sys2Proof.Machine

/-! ## What a completion passes on -/

/-- R94, R95: the rating after a COUPLING result, and the event it raises; `lose` and `regain` are the
record's. -/
def rate (lose regain : Nat) (c : ChannelCoupling) (good : Bool) : ChannelCoupling × Option SideEvent :=
  let bad' := if good then 0 else min 15 (c.bad + 1)
  let good' := if good then min 15 (c.good + 1) else 0
  match c.state, good with
  | .unproven, true =>
    if regain ≤ good' then (⟨.coupled, bad', good'⟩, some .couplingRegained) else (⟨.unproven, bad', good'⟩, none)
  | .unproven, false => (⟨.unproven, bad', good'⟩, none)
  | .coupled, true => (⟨.coupled, bad', good'⟩, none)
  | .coupled, false =>
    if lose ≤ bad' then (⟨.lost, bad', good'⟩, some .couplingLost) else (⟨.doubtful, bad', good'⟩, none)
  | .doubtful, true => (⟨.coupled, bad', good'⟩, none)
  | .doubtful, false =>
    if lose ≤ bad' then (⟨.lost, bad', good'⟩, some .couplingLost) else (⟨.doubtful, bad', good'⟩, none)
  | .lost, true =>
    if regain ≤ good' then (⟨.coupled, bad', good'⟩, some .couplingRegained) else (⟨.lost, bad', good'⟩, none)
  | .lost, false => (⟨.lost, bad', good'⟩, none)
  | .unsupervised, _ => (c, none)

/-- R95, R96, R100: a COUPLING result for a receive channel. -/
def couplingResult (x : Side) (ch : Channel) (good : Bool) (s : State) : State :=
  let rec' := (s.sc.get x).channels[ch]
  let r := rate rec'.lose rec'.regain (s.cs.get x).ratings[ch] good
  let s' := s.setCs x { s.cs.get x with ratings := (s.cs.get x).ratings.set ch r.1 }
  match r.2 with
  | none => s'
  | some e => raiseCoupling x e ch s'

/-- R34: the load status of a transmit channel; a latch that is set keeps its value. -/
def loadFault (x : Side) (ch : Channel) (latch : FaultLatch) (s : State) : State :=
  if (s.sc.get x).faults[ch] = .none then
    raiseSide x .channelFault (s.modifySc x (fun sc => { sc with faults := sc.faults.set ch latch }))
  else s

/-- R69: whether the coupling state of a receive channel blocks its DETECT results. -/
def CouplingState.blocks : CouplingState → Bool
  | .unproven => true
  | .lost => true
  | .unsupervised => false
  | .coupled => false
  | .doubtful => false

/-! ## Step records -/

/-- A shot of side `x`'s list in the ACTIVE slot. -/
def activeShot (s : State) (x : Side) (i : Nat) : Option PlannedShot := (s.ps.active.get x).shots[i]?

/-- The outcome entry of a skipped shot (R70). -/
def skipEntry (cause : GapCause) (i : Nat) (p : PlannedShot) : OutcomeEntry :=
  ⟨i, p.shot.tx, p.shot.rx, .skipped cause⟩

/-- The entries of shots of a list, all skipped with one cause. -/
def skipEntries (cause : GapCause) (l : ShotList) (indices : List Nat) : List OutcomeEntry :=
  indices.filterMap (fun i => (l.shots[i]?).map (skipEntry cause i))

/-- The step record in which every due shot of a step is skipped with one cause (R63, R72); with no due shot
it is the empty record of R64. -/
def skipRecord (cause : GapCause) (generation : BitVec 16) (l : ShotList) (step : Int) : StepRecord :=
  ⟨step, generation, skipEntries cause l (l.dueIndices step)⟩

/-- R62, R72: the records of the owed steps, ascending. -/
def owedRecords (l : ShotList) (f : Firing) : List StepRecord :=
  (List.range f.owed).map (fun (k : Nat) => skipRecord .overrun f.generation l (f.step + 1 + (k : Int)))

/-! ## Step evaluation -/

/-- The verdict that a step evaluation reads: the oldest of its side's list (R120). An engine never evaluates
a step without one; were the list empty, the outcome of every channel would be CLEAR (log 18). -/
def State.nextVerdict (s : State) (x : Side) (step : Int) : Verdict :=
  ((s.it.verdicts.get x).head?).getD ⟨step, Vector.replicate 12 .clear⟩

/-- R72, R108, R144: side `x`'s next finished step record is evaluated, first by the tracker, then by the gap
recorder; after the last one the engine is IDLE. -/
def stepEvaluation (x : Side) (s : State) : State :=
  match (s.se.get x).finished with
  | [] => s
  | r :: rest =>
    let c : EvalContext := ⟨x, r.step, s.ps.generation, s.nextVerdict x r.step⟩
    let k := s.track.evaluate s.du.hwm c (s.ps.active.get x) r.entries
    let it := { k.1.it with verdicts := k.1.it.verdicts.set x (k.1.it.verdicts.get x).tail }
    let s1 := s.setTrack ⟨it, k.1.li⟩
    let s2 := s1.setRecorder x ((s1.recorder x).evaluate x r.step (stepCause r.entries k.2))
    s2.setSe x (match rest with
      | [] => ⟨none, []⟩
      | _ :: _ => ⟨(s.se.get x).firing, rest⟩)

/-- Evaluate `n` finished records of side `x`. -/
def evaluateTimes (x : Side) : Nat → State → State
  | 0, s => s
  | n + 1, s => evaluateTimes x n (stepEvaluation x s)

/-- R72: evaluate every finished record of side `x` in ascending order; the engine becoming IDLE may end the
drain's phase LISTS (R178). -/
def evaluateFinished (x : Side) (s : State) : State :=
  drainTest (evaluateTimes x (s.se.get x).finished.length s)

/-- Change what side `x`'s engine holds while FIRING. -/
def State.modifyFiring (s : State) (x : Side) (f : Firing → Firing) : State :=
  s.setSe x { s.se.get x with firing := (s.se.get x).firing.map f }

/-- R72: the end of the list: the record of the current step and those of the owed steps are finished and
evaluated, and the engine becomes IDLE. -/
def endOfList (x : Side) (s : State) : State :=
  match (s.se.get x).firing with
  | none => s
  | some f =>
    evaluateFinished x (s.setSe x
      ⟨some { f with inFlight := none },
        ⟨f.step, f.generation, f.record⟩ :: owedRecords (s.ps.active.get x) f⟩)

/-! ## Working through the list -/

/-- An outcome entry is added and the position moves on (R70, R71). -/
def Firing.addEntry (e : OutcomeEntry) (f : Firing) : Firing :=
  { f with inFlight := none, position := f.position + 1, record := f.record ++ [e] }

/-- R65: what the front end is given. -/
def frontEndParams (sc : Sc) (sh : Shot) : FrontEndParams :=
  let p := sc.profiles[sh.profile]
  ⟨sh.tx, sh.rx, sh.gain, p.preTrigger, p.pulse, p.recovery, listeningEnd sh.gates, sc.supply⟩

/-- R65: the shot starts. -/
def startShot (x : Side) (i : Nat) (p : PlannedShot) (s : State) : State :=
  s.modifyFiring x (fun f =>
    { f with inFlight := some ⟨i, s.now, p.duration, frontEndParams (s.sc.get x) p.shot⟩ })

/-- R65, R71: reach the due shots, of which `due` are still to come. A shot that is not executable is skipped
with CHANNEL_OFF and takes no time. A shot starts only while the side is ARMED (R75); should it not be, which
does not arise, the shot is skipped as R74 skips it (log 18). -/
def reachShots (x : Side) : List Nat → State → State
  | [], s => endOfList x s
  | i :: rest, s =>
    match activeShot s x i with
    | none => reachShots x rest (s.modifyFiring x (fun f => { f with position := f.position + 1 }))
    | some p =>
      if (s.sc.get x).state ≠ .armed then
        reachShots x rest (s.modifyFiring x (Firing.addEntry (skipEntry .sideNotReady i p)))
      else if (s.sc.get x).executable p.shot then startShot x i p s
      else reachShots x rest (s.modifyFiring x (Firing.addEntry (skipEntry .channelOff i p)))

/-- R60 to R64: a fire boundary into `step` reaches side `x`'s engine. -/
def engineBoundary (x : Side) (step : Int) (s : State) : State :=
  let l := s.ps.active.get x
  match (s.se.get x).firing with
  | some _ => s.modifyFiring x (fun f => { f with owed := f.owed + 1 })
  | none =>
    if l.dueIndices step = [] ∨ (s.sc.get x).state ≠ .armed then
      evaluateFinished x (s.setSe x ⟨none, [skipRecord .sideNotReady s.ps.generation l step]⟩)
    else
      reachShots x (l.dueIndices step) (s.setSe x
        ⟨some ⟨step, s.ps.generation, l.dueIndices step, 0, none, [], 0⟩, []⟩)

/-- R74: side `x`'s list is aborted: the shot in flight and every due shot after it are skipped with
SIDE_NOT_READY, and the current and owed steps are evaluated. -/
def abortList (x : Side) (s : State) : State :=
  match (s.se.get x).firing with
  | none => s
  | some _ =>
    endOfList x (s.modifyFiring x (fun f =>
      { f with
        inFlight := none
        record := f.record ++ skipEntries .sideNotReady (s.ps.active.get x) (f.due.drop f.position) }))

/-- The outcome of a completed shot and the state its results leave (R67 to R69). -/
def shotOutcome (x : Side) (load : LoadStatus) (trace : List Nat) (fl : InFlight) (p : PlannedShot)
    (s : State) : ShotOutcome × State :=
  match load with
  | .openLoad => (.skipped .channelOff, loadFault x p.shot.tx .openLoad s)
  | .shorted => (.skipped .channelOff, loadFault x p.shot.tx .shorted s)
  | .good =>
    let rs := evaluateGates (deliveredTrace trace fl.params.listeningEnd) p.shot.gates
    let s' := match couplingGood rs with
      | none => s
      | some g => couplingResult x p.shot.rx g s
    if ((s'.cs.get x).ratings[p.shot.rx]).state.blocks then (.completed true [], s')
    else (.completed false (detectResults rs), s')

/-- R66 to R71: the completion of side `x`'s shot in flight; without one in flight there is none. -/
def completeShot (x : Side) (load : LoadStatus) (trace : List Nat) (s : State) : State :=
  match (s.se.get x).firing with
  | none => s
  | some f =>
    match f.inFlight with
    | none => s
    | some fl =>
      let s0 := s.advanceTo (fl.start + fl.duration * Config.tuPerUs)
      match activeShot s x fl.shot with
      | none => s0
      | some p =>
        let r := shotOutcome x load trace fl p s0
        reachShots x (f.due.drop (f.position + 1))
          (r.2.modifyFiring x (Firing.addEntry ⟨fl.shot, p.shot.tx, p.shot.rx, r.1⟩))

/-! ## The meanings -/

/-- SHOT_COMPLETION (R66). -/
def execShotCompletion (x : Side) (load : LoadStatus) (trace : List Nat) (s : State) :
    Host.Outcome State Fault Refusal := .next (s.whenLive (completeShot x load trace))

/-- STEP_EVALUATION (R108): the next finished record of the side, if there is one (log 5). -/
def execStepEvaluation (x : Side) (s : State) : Host.Outcome State Fault Refusal :=
  .next (s.whenLive (fun s => drainTest (stepEvaluation x s)))

/-- CLUSTER_RELEASE (R135): the front cluster of the release line leaves if the queue has a free place; the drain
may end (R138). -/
def execClusterRelease (s : State) : Host.Outcome State Fault Refusal :=
  .next (s.whenLive (fun s => drainEndTest (s.setTrack (s.track.releaseFront s.du.hwm))))

/-- DRAIN_RELEASE_PHASE (R178): in LISTS with both engines IDLE. -/
def execDrainReleasePhase (s : State) : Host.Outcome State Fault Refusal := .next (s.whenLive drainTest)

/-- DRAIN_END (R179): when the release is complete. -/
def execDrainEnd (s : State) : Host.Outcome State Fault Refusal := .next (s.whenLive drainEndTest)

end Sys2Proof.Machine
end

