-- ==== Sys2Proof/Machine/Boundary.lean ====
section
/-! DEFINITION. Counts and boundaries (R2, R4 to R8, R10 to R12), the work of a fire boundary in its order (R8, R55,
R60, R120, R134), and the meanings of the encoder events, of PLAN_SWAP_AT_BOUNDARY and of
CHANNEL_RECORD_TAKES_EFFECT. -/
namespace Sys2Proof.Machine

/-! ## The fire boundary -/

/-- R55, R56, R58: the pending swap at the boundary under way, if both engines are IDLE: the swap of R54, the
PLAN_CHANGE closures (R116), and the RUNSTATE trigger. -/
def planSwapAtBoundary (s : State) : State :=
  match s.boundary with
  | none => s
  | some step =>
    if s.ps.swapPending = true ∧ enginesIdle s = true then
      let s1 := swapPlans s
      let s2 := s1.setTrack (s1.track.closeAll s1.du.hwm markPlanChange)
      placeRunstate causeSwap (some (step, .boundary)) s2
    else s

/-- R120, R134, R135: the tracker's own work at the boundary into `step`: the verdicts, the sealing of the clusters
that have become due, and their release. -/
def trackerBoundary (step : Int) (s : State) : State :=
  releaseClusters (s.setIt ((s.it.appendVerdicts step).sealDue s.du.hwm))

/-- R8, R55: the work of a fire boundary into `step` after the Distance Unit's own: the swap, pending channel
records (R31), the tracker, and the two engines, `first` before the other (log 6). -/
def fireBoundary (first : Side) (step : Int) (s : State) : State :=
  let s1 := planSwapAtBoundary (s.setBoundary (some step))
  let s2 := trackerBoundary step (recordsTakeEffect s1)
  (engineBoundary (otherSide first) step (engineBoundary first step s2)).setBoundary none

/-! ## Counts -/

/-- R1, R11: what every count does: the new pair becomes the last pair and the standstill timer restarts. -/
def Du.takeCount (d : Du) (pair : EncoderPair) (now : Nat) : Du :=
  { d with lastPair := pair, standstill := some (d.timeoutAt now) }

/-- R8: whether a forward boundary into `step` is a fire boundary. -/
def isFireBoundary (s : State) (step : Int) : Bool := s.rc.run = .running && s.du.hwm < step

/-- R4, R10, R12, R13: the Distance Unit after a forward boundary that leaves the high-water mark at `hwm`. -/
def Du.forwardBoundary (d : Du) (hwm : Int) (now planTime : Nat) : Du :=
  { ({ d with step := d.step + 1, pos := 0, hwm := hwm } : Du).boundaryPeriod now planTime with
    motion := motionForward (d.step + 1) hwm }

/-- R4, R6, R8, R10, R12, R13: a forward count. -/
def forwardCount (first : Side) (s : State) : State :=
  let d := s.du.takeCount s.du.forwardPair s.now
  if s.du.pos + 1 < s.du.stepLength s.du.step then
    commitDu noLatch { d with pos := d.pos + 1, motion := motionForward d.step d.hwm } s
  else if s.du.step < Config.maxStep then
    if isFireBoundary s (s.du.step + 1) then
      fireBoundary first (s.du.step + 1)
        (commitDu noLatch (d.forwardBoundary (s.du.step + 1) s.now s.ps.active.longerPlanTime) s)
    else commitDu noLatch (d.forwardBoundary s.du.hwm s.now s.ps.active.longerPlanTime) s
  else
    beginStop .rangeEnd (commitDu ⟨false, false, false, !s.li.showsRangeEnd⟩
      { d with motion := motionForward d.step d.hwm, rangeEnd := true } s)

/-- R5, R7, R10, R12: a reverse count. -/
def reverseCount (s : State) : State :=
  let d := { (s.du.takeCount s.du.reversePair s.now).unknownPeriod with motion := .reverse }
  if 0 < s.du.pos then commitDu noLatch { d with pos := d.pos - 1 } s
  else if Config.minStep < s.du.step then
    commitDu noLatch { d with step := d.step - 1, pos := d.stepLength (d.step - 1) - 1 } s
  else commitDu ⟨false, false, false, !s.li.showsRangeEnd⟩ { d with rangeEnd := true } s

/-- R2: an illegal transition. -/
def illegalTransition (s : State) : State :=
  commitDu ⟨false, false, !s.li.showsEncoderError, false⟩
    { s.du with lastPair := s.du.lastPair.opposite, encoderError := true } s

/-- R10, R11: the standstill timer runs out; a stopped timer does not. -/
def standstillExpiry (s : State) : State :=
  match s.du.standstill with
  | none => s
  | some t =>
    commitDu noLatch { s.du.unknownPeriod with motion := .standstill, standstill := none } (s.advanceTo t)

/-! ## The meanings -/

/-- FORWARD_COUNT (R4). -/
def execForwardCount (after : Nat) (first : Side) (s : State) : Host.Outcome State Fault Refusal :=
  .next ((s.advance after).whenLive (forwardCount first))

/-- REVERSE_COUNT (R5). -/
def execReverseCount (after : Nat) (s : State) : Host.Outcome State Fault Refusal :=
  .next ((s.advance after).whenLive reverseCount)

/-- ILLEGAL_TRANSITION (R2). -/
def execIllegalTransition (after : Nat) (s : State) : Host.Outcome State Fault Refusal :=
  .next ((s.advance after).whenLive illegalTransition)

/-- STANDSTILL_TIMER_EXPIRY (R11). -/
def execStandstillTimerExpiry (s : State) : Host.Outcome State Fault Refusal :=
  .next (s.whenLive standstillExpiry)

/-- PLAN_SWAP_AT_BOUNDARY (R55): at the boundary under way (log 5). -/
def execPlanSwapAtBoundary (s : State) : Host.Outcome State Fault Refusal :=
  .next (s.whenLive planSwapAtBoundary)

/-- R31: whether a pending record takes effect now: in IDLE, or at the fire boundary under way. -/
def recordMoment (s : State) : Bool := s.rc.run = .idle || s.boundary.isSome

/-- CHANNEL_RECORD_TAKES_EFFECT (R31): at its moment. -/
def execChannelRecordTakesEffect (x : Side) (ch : Channel) (s : State) : Host.Outcome State Fault Refusal :=
  .next (s.whenLive (fun s => if recordMoment s then recordTakesEffect x s ch else s))

end Sys2Proof.Machine
end

