-- ==== Sys2Proof/Machine/Reports.lean ====
section
/-! DEFINITION. Frames and their bytes: the frame check (R157), the outer form of a frame (R156), its characters and
their bits (R154), the payloads of the six report kinds (R190), and the reply payloads of IDENTIFY, QUERY_STATUS and
READ_SHOT (R185, R186, R189). -/
namespace Sys2Proof.Machine

/-! ## The frame check and the frame -/

/-- One shift of the check register: generator x^16 + x^12 + x^5 + 1 (R157). -/
def crcShift (r : BitVec 16) : BitVec 16 := if r.msb then (r <<< 1) ^^^ 0x1021#16 else r <<< 1

/-- A byte enters the check register, most significant bit first (R157). -/
def crcByte (r : BitVec 16) (b : Byte) : BitVec 16 :=
  (crcShift ∘ crcShift ∘ crcShift ∘ crcShift ∘ crcShift ∘ crcShift ∘ crcShift ∘ crcShift)
    (r ^^^ (b.setWidth 16 <<< 8))

/-- The frame check of a sequence of bytes (R157). -/
def frameCheck (bytes : List Byte) : BitVec 16 := bytes.foldl crcByte 0xFFFF#16

/-- The bytes that the check covers: length, kind, tag and payload (R157). -/
def coveredBytes (kind tag : Byte) (payload : List Byte) : List Byte :=
  byte payload.length :: kind :: tag :: payload

/-- The characters of a frame (R156). -/
def frameBytes (cls kind tag : Byte) (payload : List Byte) : List Byte :=
  cls :: coveredBytes kind tag payload ++ be16 (frameCheck (coveredBytes kind tag payload)).toNat

/-- The class codes (R156). -/
def classRequest : Byte := 0xA1#8
def classReply : Byte := 0xA2#8
def classReport : Byte := 0xA3#8

/-- R154, R168: the characters of a frame as the part sends them: the mark bit set on the first alone, every stop bit
at the high level. -/
def frameCharacters : List Byte → List Character
  | [] => []
  | cls :: rest => ⟨cls, true, true⟩ :: rest.map (fun b => ⟨b, false, true⟩)

/-- A bit time in TU (R154, R155). -/
def LinkRate.bitTime : LinkRate → Nat
  | .half => 40
  | .one => 20
  | .two => 10
  | .four => 5

/-- A character time in TU: eleven bit times (R154). -/
def LinkRate.charTime (r : LinkRate) : Nat := 11 * r.bitTime

/-- R154: the levels of a character's eleven bits in the order in which they stand on the line: the start bit low, the
data bits with the least significant first, the mark bit, the stop bit. -/
def characterLevels (c : Character) : List Bool :=
  false :: (List.range 8).map (fun i => c.data.getLsbD i) ++ [c.mark, c.stop]

/-- The rate that the straps select (R155). -/
def LinkRate.ofStraps (rate1 rate0 : Bool) : LinkRate :=
  match rate1, rate0 with
  | false, false => .half
  | false, true => .one
  | true, false => .two
  | true, true => .four

/-! ## Report payloads (R190) -/

def MotionReport.payload (r : MotionReport) : List Byte :=
  byte (flagByte [r.causes.state, r.causes.fast, r.causes.encoderError, r.causes.rangeEnd]) ::
    beS32 r.step ++ beS32 r.hwm ++ be24 (r.period.getD 0) ++
    [byte r.motion.code, byte (flagByte [r.fast, r.encoderError, r.rangeEnd])]

def RunstateReport.payload (r : RunstateReport) : List Byte :=
  [byte (flagByte [r.causes.start, r.causes.stop, r.causes.idle, r.causes.swap, r.causes.reset]),
    byte r.run.code, byte r.cause.code] ++
    beS32 r.hwm ++ be16 r.generation.toNat ++ beS32 r.swapStep ++ [byte r.swapPlace.code]

/-- A SIDE report's payload: its own events and mark, and the Side Controller's values (R37; log 17). -/
def SideReport.payload (x : Side) (sc : Sc) (r : SideReport) : List Byte :=
  [byte (sideCode x), byte sc.state.code, byte (boolCode sc.lowered), byte sc.level.code,
    r.events.setWidth 8] ++
    maskBytes sc.faultMask ++ maskBytes sc.shortMask ++ [byte (boolCode r.mark)]

/-- A COUPLING report's payload: its own changed mask and mark, and the supervisor's states (R101; log 17). -/
def CouplingReport.payload (x : Side) (cs : Cs) (r : CouplingReport) : List Byte :=
  byte (sideCode x) :: allChannels.map (fun c => byte cs.ratings[c].state.code) ++
    maskBytes r.changed ++ [byte (boolCode r.mark)]

def GapRange.bytes (g : GapRange) : List Byte :=
  beS32 g.first ++ beS32 g.last ++ [g.causes.setWidth 8] ++ maskBytes g.channels ++
    [byte g.count, byte (boolCode g.drain)]

def GapReport.payload (x : Side) (r : GapReport) : List Byte :=
  [byte (sideCode x), byte r.ranges.length] ++ r.ranges.flatMap GapRange.bytes

def IndicationFlags.code (f : IndicationFlags) : Nat :=
  flagByte [f.interrupted, f.saturated, f.truncated, f.long, f.planChange]

/-- A member of a FLAW report (R140). -/
def Indication.bytes (i : Indication) : List Byte :=
  [byte i.shot, byte i.gate, byte i.tx.val, byte i.rx.val] ++ beS32 i.first ++ beS32 i.last ++
    be16 i.hits ++ [byte i.peak] ++ beS32 i.peakStep ++ be16 i.peakTof ++ be16 i.tofMin ++ be16 i.tofMax ++
    [byte (i.zoneKind.getD 0), byte i.flags.code]

def FlawReport.payload (r : FlawReport) : List Byte :=
  byte (sideCode r.side) :: be16 r.generation.toNat ++ [byte r.members.length] ++
    beS32 r.first ++ beS32 r.last ++ beS40 r.release ++ [byte r.mode.code] ++ beS32 r.hwm ++
    [byte r.strongest] ++ r.members.flatMap Indication.bytes

/-! ## Reply payloads -/

/-- The data of an IDENTIFY reply (R185, R189). -/
def identifyData : List Byte :=
  be16 0x6C4B ++ [0x46#8, 0x41#8, 0x32#8, 0x34#8] ++ [1#8] ++
    [12, 16, 4, 64, 8, 8, 24, 8, 8, 2, 240].map byte

/-- The clusters of a side, and of these the ones on the release line (R141). -/
def It.clusters (t : It) (x : Side) : Nat := t.heads.countP (fun q => q.2.1.side = x)

def It.clustersOnLine (t : It) (x : Side) : Nat :=
  t.heads.countP (fun q => q.2.1.side = x && q.2.2.sealedAs.isSome)

/-- One side's part of a QUERY_STATUS reply (R186). -/
def sideStatus (s : State) (x : Side) : List Byte :=
  [byte (s.sc.get x).state.code, byte (s.sc.get x).level.code] ++ maskBytes (s.sc.get x).faultMask ++
    [byte (s.it.count (TableEntry.openOf x)), byte (s.it.count (TableEntry.heldOf x)),
      byte (s.it.clusters x), byte (s.it.clustersOnLine x)]

/-- The occupancy of the status slots (R186, R189). -/
def Li.occupancy (l : Li) : Nat :=
  flagByte [l.motion.isSome, l.runstate.isSome, l.side.a.isSome, l.side.b.isSome, l.coupling.a.isSome,
    l.coupling.b.isSome, l.gap.a.isSome, l.gap.b.isSome]

def LinkLatches.code (l : LinkLatches) : Nat := flagByte [l.framing, l.check, l.timeout, l.overrun, l.format]

/-- The data of a QUERY_STATUS reply (R186, R189). -/
def queryData (s : State) : List Byte :=
  [byte s.rc.run.code, byte s.rc.cause.code, byte s.rc.drain.code, byte s.rc.handler.code,
    byte s.du.motion.code] ++
    beS32 s.du.step ++ beS32 s.du.hwm ++ be24 (s.du.period.getD 0) ++ be16 s.ps.generation.toNat ++
    [byte (flagByte [s.ps.swapPending, s.du.fast, alert s])] ++
    be16 s.ps.active.a.planTime ++ be16 s.ps.active.b.planTime ++
    be16 s.ps.staged.a.planTime ++ be16 s.ps.staged.b.planTime ++
    sideStatus s .a ++ sideStatus s .b ++
    [byte s.li.flawQueue.length, byte s.li.occupancy, byte s.li.latches.code]

/-- A gate record as WRITE_SHOT and READ_SHOT lay it out (R188, R189). -/
def Gate.bytes (g : Gate) : List Byte :=
  [byte g.purpose.code, byte g.mode.code] ++ be16 g.start ++ be16 g.width ++
    [byte g.t1, byte g.t2, g.conditionCode]

/-- Four gate records, zeros at and above the gate count (R189). -/
def gateBytes (gs : List Gate) : List Byte :=
  (gs.flatMap Gate.bytes ++ List.replicate 36 0#8).take 36

/-- A shot's fields in a READ_SHOT reply; zeros for an absent shot (R189). -/
def shotBytes : Option PlannedShot → List Byte
  | none => List.replicate 46 0#8
  | some p =>
    [1#8, byte p.shot.tx.val, byte p.shot.rx.val, byte p.shot.gain, byte p.shot.profile.val,
      byte p.shot.cadence, byte p.shot.phase, byte p.shot.gates.length] ++
      gateBytes p.shot.gates ++ be16 p.duration

/-- The data of a READ_SHOT reply (R48, R189). -/
def readShotData (generation : BitVec 16) (l : ShotList) (index : Nat) : List Byte :=
  be16 generation.toNat ++ [byte l.shots.length] ++ be16 l.planTime ++ shotBytes l.shots[index]?

end Sys2Proof.Machine
end

