-- ==== Sys2Proof/Machine/Link.lean ====
section
/-! DEFINITION. The Message Link (Chapter 10): the Frame Receiver (R158 to R164), the Transmit Arbiter's choice
(R165, R166), the beginning and end of a transmission (R167, R168), and the meanings of the link's commands. -/
namespace Sys2Proof.Machine

/-! ## The Frame Receiver -/

/-- R160: the idle time after a character taken now. -/
def Li.idleDeadline (l : Li) (now : Nat) : Nat := now + 4 * l.rate.charTime

/-- R159: the receiver after a discard or a completion: HUNTING, with the buffer empty and the timer stopped. -/
def Receiver.hunting : Receiver := ⟨false, [], false, none⟩

/-- R158, R161: a marked class A1h starts a frame. -/
def Li.startFrame (now : Nat) (c : Character) (l : Li) : Li :=
  { l with receiver := ⟨true, [c.data], false, some (l.idleDeadline now)⟩ }

/-- R162: a complete frame with a good check is held, or discarded with OVERRUN. -/
def Li.holdFrame (f : Frame) (l : Li) : Li :=
  if l.held.length < Config.heldPlaces then { l with held := l.held ++ [f] }
  else { l with latches := { l.latches with overrun := true } }

/-- R158: a character in HUNTING. -/
def Li.hunt (now : Nat) (c : Character) (l : Li) : Li :=
  if !c.stop then { l with latches := { l.latches with framing := true } }
  else if c.mark then
    if c.data = classRequest then l.startFrame now c
    else { l with
      receiver := { l.receiver with unmarkedRun := false }
      latches := { l.latches with format := true } }
  else if l.receiver.unmarkedRun then l
  else { l with
    receiver := { l.receiver with unmarkedRun := true }
    latches := { l.latches with format := true } }

/-- The payload length of the frame in the buffer (R156). -/
def Receiver.payloadLength (buffer : List Byte) : Nat := (buffer.getD 1 0).toNat

/-- The frame of a complete buffer (R156, R162). -/
def Receiver.frame (buffer : List Byte) : Frame :=
  ⟨buffer.getD 2 0, buffer.getD 3 0, (buffer.drop 4).take (Receiver.payloadLength buffer)⟩

/-- R157: whether the received check of a complete buffer equals the computed check. -/
def Receiver.checkGood (buffer : List Byte) : Bool :=
  let n := Receiver.payloadLength buffer
  be16 (frameCheck ((buffer.drop 1).take (n + 3))).toNat = buffer.drop (n + 4)

/-- R159: an unmarked character with a good stop bit is taken into the buffer in ASSEMBLING. -/
def Li.takeByte (now : Nat) (b : Byte) (l : Li) : Li :=
  let buffer := l.receiver.buffer ++ [b]
  if buffer.length = 2 ∧ Config.maxPayload < Receiver.payloadLength buffer then
    { l with receiver := Receiver.hunting, latches := { l.latches with format := true } }
  else if 2 ≤ buffer.length ∧ buffer.length = Receiver.payloadLength buffer + 6 then
    if Receiver.checkGood buffer then
      ({ l with receiver := Receiver.hunting } : Li).holdFrame (Receiver.frame buffer)
    else { l with receiver := Receiver.hunting, latches := { l.latches with check := true } }
  else { l with receiver := ⟨true, buffer, false, some (l.idleDeadline now)⟩ }

/-- R159, R161: a character in ASSEMBLING. -/
def Li.assemble (now : Nat) (c : Character) (l : Li) : Li :=
  if !c.stop then { l with receiver := Receiver.hunting, latches := { l.latches with framing := true } }
  else if c.mark then
    if c.data = classRequest then
      ({ l with latches := { l.latches with format := true } } : Li).startFrame now c
    else { l with receiver := Receiver.hunting, latches := { l.latches with format := true } }
  else l.takeByte now c.data

/-- R158 to R162: a character arrives. -/
def characterReceived (c : Character) (s : State) : State :=
  s.setLi (if s.li.receiver.assembling then s.li.assemble s.now c else s.li.hunt s.now c)

/-- R160: the idle timer runs out; a stopped timer does not. -/
def idleExpiry (s : State) : State :=
  match s.li.receiver.idle with
  | none => s
  | some t =>
    (s.advanceTo t).setLi
      { s.li with receiver := Receiver.hunting, latches := { s.li.latches with timeout := true } }

/-! ## The Transmit Arbiter -/

/-- R165: whether ordinal `a` is older than ordinal `b`. -/
def olderOrdinal (a b : BitVec 16) : Bool := 1 ≤ (b - a).toNat && (b - a).toNat ≤ 32767

/-- A candidate of the choice: a pending report with its ordinal. -/
structure Candidate where
  owner : FrameOwner
  ordinal : BitVec 16

/-- The candidate of a slot. -/
def slotCandidate {α : Type} (owner : FrameOwner) (slot : Option (Pending α)) : Option Candidate :=
  slot.map (fun p => ⟨owner, p.ordinal⟩)

/-- R166: the pending reports of the eight slots and the head of the flaw queue. -/
def Li.candidates (l : Li) : List Candidate :=
  [slotCandidate .motion l.motion, slotCandidate .runstate l.runstate,
    slotCandidate (.side .a) l.side.a, slotCandidate (.side .b) l.side.b,
    slotCandidate (.coupling .a) l.coupling.a, slotCandidate (.coupling .b) l.coupling.b,
    slotCandidate (.gap .a) l.gap.a, slotCandidate (.gap .b) l.gap.b,
    slotCandidate .flaw l.flawQueue.head?].filterMap id

/-- R166: the candidate with the oldest ordinal. -/
def oldestCandidate : List Candidate → Option Candidate
  | [] => none
  | c :: cs =>
    match oldestCandidate cs with
    | none => some c
    | some d => if olderOrdinal d.ordinal c.ordinal then some d else some c

/-- R166: the frame chosen: the reply, or the oldest pending report. -/
def Li.choice (l : Li) : Option FrameOwner :=
  match l.reply with
  | some r => some (.reply r.resetAck)
  | none => (oldestCandidate l.candidates).map (fun c => c.owner)

/-- R154, R168: a frame of these bytes begins now; its characters follow one another with no idle time. -/
def Li.transmit (now : Nat) (owner : FrameOwner) (mark : Bool) (bytes : List Byte) (l : Li) : Li :=
  { l with tx := some ⟨owner, mark, frameCharacters bytes, now, now + bytes.length * l.rate.charTime⟩ }

/-- R167: a report frame begins; its tag is the sequence number, which increases by one. -/
def Li.transmitReport (now : Nat) (owner : FrameOwner) (mark : Bool) (kind : Byte) (payload : List Byte)
    (l : Li) : Li :=
  { l.transmit now owner mark (frameBytes classReport kind l.sequence payload) with
    sequence := l.sequence + 1 }

/-- The kind codes of the reports (Section 12.1). -/
def kindMotion : Byte := 0x41#8
def kindRunstate : Byte := 0x42#8
def kindSide : Byte := 0x43#8
def kindCoupling : Byte := 0x44#8
def kindGap : Byte := 0x45#8
def kindFlaw : Byte := 0x46#8

/-- R167: the frame of `owner` leaves its place and begins; the owner then does what its chapter states. -/
def beginFrame (s : State) : FrameOwner → State
  | .reply resetAck =>
    match s.li.reply with
    | none => s
    | some r =>
      s.setLi (({ s.li with reply := none } : Li).transmit s.now (.reply resetAck) false
        (frameBytes classReply r.kind r.tag r.payload))
  | .motion =>
    match s.li.motion with
    | none => s
    | some p =>
      (s.setLi (({ s.li with motion := none } : Li).transmitReport s.now .motion false kindMotion
        p.report.payload)).setDu { s.du with encoderError := false, rangeEnd := false }
  | .runstate =>
    match s.li.runstate with
    | none => s
    | some p =>
      s.setLi (({ s.li with runstate := none } : Li).transmitReport s.now .runstate false kindRunstate
        p.report.payload)
  | .side x =>
    match s.li.side.get x with
    | none => s
    | some p =>
      s.setLi (({ s.li with side := s.li.side.set x none } : Li).transmitReport s.now (.side x)
        p.report.mark kindSide (p.report.payload x (s.sc.get x)))
  | .coupling x =>
    match s.li.coupling.get x with
    | none => s
    | some p =>
      s.setLi (({ s.li with coupling := s.li.coupling.set x none } : Li).transmitReport s.now (.coupling x)
        p.report.mark kindCoupling (p.report.payload x (s.cs.get x)))
  | .gap x =>
    match s.li.gap.get x with
    | none => s
    | some p =>
      s.setLi (({ s.li with gap := s.li.gap.set x none } : Li).transmitReport s.now (.gap x) false kindGap
        (p.report.payload x))
  | .flaw =>
    match s.li.flawQueue with
    | [] => s
    | p :: rest =>
      drainEndTest (releaseClusters
        (s.setLi (({ s.li with flawQueue := rest } : Li).transmitReport s.now .flaw false kindFlaw
          p.report.payload)))

/-- R166: whether the transmitter may begin a frame. -/
def Li.free (l : Li) : Bool := l.tx.isNone && !l.holdIn

/-- R166, R167: the free transmitter begins the next frame, if one is waiting and HOLD_IN is deasserted. -/
def transmissionStart (s : State) : State :=
  if s.li.free then
    match s.li.choice with
    | none => s
    | some owner => beginFrame s owner
  else s

/-- R181: the end of the transmission of a RESET's ACK, at which the awaited reset acts. -/
def HandlerState.ackEnded (resetAck : Bool) (h : HandlerState) : HandlerState :=
  match h with
  | .ready => .ready
  | .awaitingReset scope sent => .awaitingReset scope (sent || resetAck)

/-- Whether the frame in transmission is the ACK of an accepted RESET (R181). -/
def FrameOwner.isResetAck : FrameOwner → Bool
  | .reply resetAck => resetAck
  | .motion | .runstate | .side _ | .coupling _ | .gap _ | .flaw => false

/-- R168: the last character has been sent; with no frame in transmission there is no end. -/
def transmissionEnd (s : State) : State :=
  match s.li.tx with
  | none => s
  | some t =>
    ((s.advanceTo t.finish).setLi { s.li with tx := none }).setRc
      { s.rc with handler := s.rc.handler.ackEnded t.owner.isResetAck }

/-- R166: HOLD_IN falls: the transmitter makes its choice. -/
def holdInRelease (s : State) : State := transmissionStart (s.setLi { s.li with holdIn := false })

/-! ## The meanings -/

/-- CHARACTER_RECEIVED (R158). -/
def execCharacterReceived (after : Nat) (c : Character) (s : State) : Host.Outcome State Fault Refusal :=
  .next ((s.advance after).whenLive (characterReceived c))

/-- IDLE_TIMER_EXPIRY (R160). -/
def execIdleTimerExpiry (s : State) : Host.Outcome State Fault Refusal := .next (s.whenLive idleExpiry)

/-- HOLD_IN_ASSERT (R166). -/
def execHoldInAssert (after : Nat) (s : State) : Host.Outcome State Fault Refusal :=
  .next ((s.advance after).whenLive (fun s => s.setLi { s.li with holdIn := true }))

/-- HOLD_IN_RELEASE (R166). -/
def execHoldInRelease (after : Nat) (s : State) : Host.Outcome State Fault Refusal :=
  .next ((s.advance after).whenLive holdInRelease)

/-- TRANSMISSION_START (R167). -/
def execTransmissionStart (s : State) : Host.Outcome State Fault Refusal := .next (s.whenLive transmissionStart)

/-- TRANSMISSION_END (R168). -/
def execTransmissionEnd (s : State) : Host.Outcome State Fault Refusal := .next (s.whenLive transmissionEnd)

end Sys2Proof.Machine
end

