-- ==== Sys2Proof/Machine/Side.lean ====
section
/-! DEFINITION. The Side Controller's state machine (Chapter 2): carriage, arming, supply faults, departures from
ARMED, and the meanings of its input events. -/
namespace Sys2Proof.Machine

/-- R26: the engine is notified when the side has left ARMED; `was` is the state before. -/
def notifyDeparture (x : Side) (was : SideState) (s : State) : State :=
  if was = .armed ∧ (s.sc.get x).state ≠ .armed then abortList x s else s

/-- R24: a supply fault is taken. -/
def supplyFault (x : Side) (s : State) : State :=
  raiseSide x .hvFault (s.modifySc x (fun sc => { sc with state := .fault, supply := .off, ramp := none }))

/-- R24: at entry into ARMING or at a ramp restart the fault is taken at once if HVFLT is asserted. -/
def supplyFaultCheck (x : Side) (s : State) : State :=
  if (s.sc.get x).state = .arming ∧ (s.sc.get x).hvflt = true then supplyFault x s else s

/-- R22: entry into ARMING, or a restart of the ramp: the level is driven and the ramp timer starts at
30 ms. -/
def enterArming (x : Side) (s : State) : State :=
  s.modifySc x (fun sc =>
    { sc with state := .arming, supply := sc.level, ramp := some (s.now + Config.rampTime) })

/-- R19: a move to LOWERED, PARKED or FAULT with the supply off and the ramp timer stopped (R21, R22). -/
def Sc.supplyOff (st : SideState) (sc : Sc) : Sc := { sc with state := st, supply := .off, ramp := none }

/-- R20: the auto-arm check on entry into LOWERED. -/
def autoArmCheck (x : Side) (s : State) : State :=
  if (s.sc.get x).autoArm = true ∧ (s.sc.get x).level ≠ .off then enterArming x s else s

/-- R18, R19, R20: the carriage flag becomes lowered. -/
def carriageLowered (x : Side) (s : State) : State :=
  let s1 := s.modifySc x (fun sc => { sc with lowered := true })
  if (s.sc.get x).state = .parked then
    supplyFaultCheck x (raiseSide x .carriageDown (autoArmCheck x (s1.modifySc x (Sc.supplyOff .lowered))))
  else raiseSide x .carriageDown s1

/-- R18, R19, R25: the carriage flag becomes raised. -/
def carriageRaised (x : Side) (s : State) : State :=
  let was := (s.sc.get x).state
  let s1 := s.modifySc x (fun sc => { sc with lowered := false })
  let s2 := if was = .fault then s1 else s1.modifySc x (Sc.supplyOff .parked)
  notifyDeparture x was (raiseSide x .carriageUp s2)

/-- R18: the carriage flag takes a level. -/
def setCarriageFlag (x : Side) (lowered : Bool) (s : State) : State :=
  if lowered then carriageLowered x s else carriageRaised x s

/-- R18: the raw carriage input changes: a candidate starts, or is dropped when the input returns to the flag's
level. -/
def carriageChange (x : Side) (s : State) : State :=
  s.modifySc x (fun sc =>
    let level := !sc.carriageInput
    { sc with
      carriageInput := level
      candidate := if level = sc.lowered then none else some ⟨level, s.now + Config.debounceTime⟩ })

/-- R18: the candidate has been held for 2 ms; without a candidate there is no expiry. -/
def debounceExpiry (x : Side) (s : State) : State :=
  match (s.sc.get x).candidate with
  | none => s
  | some d =>
    setCarriageFlag x d.level ((s.advanceTo d.deadline).modifySc x (fun sc => { sc with candidate := none }))

/-- R23: HVRDY changes from deasserted to asserted; it is no arrival if the input is asserted already. -/
def hvrdyArrival (x : Side) (s : State) : State :=
  if (s.sc.get x).hvrdy then s
  else
    let s1 := s.modifySc x (fun sc => { sc with hvrdy := true })
    if (s.sc.get x).state = .arming then
      raiseSide x .armed (s1.modifySc x (fun sc => { sc with state := .armed, ramp := none }))
    else s1

/-- R23: HVRDY falls, with no effect on the side state. -/
def hvrdyFall (x : Side) (s : State) : State := s.modifySc x (fun sc => { sc with hvrdy := false })

/-- R24: HVFLT becomes asserted, or falls; a fall, and an assertion in PARKED, LOWERED or FAULT, changes the
input's level alone. -/
def hvfltChange (x : Side) (level : Bool) (s : State) : State :=
  let sc := s.sc.get x
  let s1 := s.modifySc x (fun sc => { sc with hvflt := level })
  if level && !sc.hvflt && (sc.state = .arming || sc.state = .armed) then
    notifyDeparture x sc.state (supplyFault x s1)
  else s1

/-- R23: the ramp timer runs out in ARMING. -/
def rampExpiry (x : Side) (s : State) : State :=
  match (s.sc.get x).ramp with
  | none => s
  | some t =>
    if (s.sc.get x).state = .arming then
      raiseSide x .rampTimeout ((s.advanceTo t).modifySc x (Sc.supplyOff .fault))
    else s

/-! ## The meanings -/

/-- CARRIAGE_INPUT_CHANGE (R18). -/
def execCarriageInputChange (after : Nat) (x : Side) (s : State) : Host.Outcome State Fault Refusal :=
  .next ((s.advance after).whenLive (carriageChange x))

/-- DEBOUNCE_EXPIRY (R18). -/
def execDebounceExpiry (x : Side) (s : State) : Host.Outcome State Fault Refusal :=
  .next (s.whenLive (debounceExpiry x))

/-- HVRDY_ARRIVAL (R23). -/
def execHvrdyArrival (after : Nat) (x : Side) (s : State) : Host.Outcome State Fault Refusal :=
  .next ((s.advance after).whenLive (hvrdyArrival x))

/-- HVRDY_FALL (R23). -/
def execHvrdyFall (after : Nat) (x : Side) (s : State) : Host.Outcome State Fault Refusal :=
  .next ((s.advance after).whenLive (hvrdyFall x))

/-- HVFLT_ASSERTED (R24). -/
def execHvfltAsserted (after : Nat) (x : Side) (level : Bool) (s : State) : Host.Outcome State Fault Refusal :=
  .next ((s.advance after).whenLive (hvfltChange x level))

/-- RAMP_TIMER_EXPIRY (R23). -/
def execRampTimerExpiry (x : Side) (s : State) : Host.Outcome State Fault Refusal :=
  .next (s.whenLive (rampExpiry x))

end Sys2Proof.Machine
end

