-- ==== Sys2Proof/Machine/Requests.lean ====
section
/-! DEFINITION. The Request Handler (Sections 11.1, 11.2): taking a frame, the common checks in their order (R170 to
R172), the reply (R173, R189); and the meanings of the requests of identification, status, distance, tracking,
zones, runs and resets. The side requests are in SideRequests.lean, the plan requests in PlanRequests.lean. -/
namespace Sys2Proof.Machine

/-- Reply status (R172). -/
inductive Status where
  | ack | unknown | length | range | state | busy | inUse | noPlan | side
deriving DecidableEq, Repr

/-- The status codes (Section 12.2). -/
def Status.code : Status → Byte
  | .ack => 0
  | .unknown => 1
  | .length => 2
  | .range => 3
  | .state => 4
  | .busy => 5
  | .inUse => 6
  | .noPlan => 7
  | .side => 8

/-- What a request is answered: ACK with its data, RANGE with a field index, or another refusal (R173). -/
inductive Answer where
  | ack (data : List Byte)
  | range (index : Nat)
  | refuse (status : Status)
deriving DecidableEq, Repr

/-- The payload of a reply (R189). -/
def Answer.payload : Answer → List Byte
  | .ack data => Status.ack.code :: data
  | .range index => [Status.range.code, byte index]
  | .refuse status => [status.code]

/-- Whether a request was accepted. -/
def Answer.accepted : Answer → Bool
  | .ack _ => true
  | .range _ => false
  | .refuse _ => false

/-- The kind codes of the requests (Section 12.1). -/
def kindIdentify : Byte := 0x01#8
def kindQueryStatus : Byte := 0x02#8
def kindSetOdometry : Byte := 0x03#8
def kindPresetPosition : Byte := 0x04#8
def kindSetTracking : Byte := 0x05#8
def kindSetSide : Byte := 0x06#8
def kindArmSide : Byte := 0x07#8
def kindDisarmSide : Byte := 0x08#8
def kindClearFault : Byte := 0x09#8
def kindSetChannel : Byte := 0x0A#8
def kindSetProfile : Byte := 0x0B#8
def kindWriteShot : Byte := 0x0C#8
def kindClearStaged : Byte := 0x0D#8
def kindReadShot : Byte := 0x0E#8
def kindSwapPlans : Byte := 0x0F#8
def kindSetZone : Byte := 0x10#8
def kindSetOffset : Byte := 0x11#8
def kindStartRun : Byte := 0x12#8
def kindStopRun : Byte := 0x13#8
def kindReset : Byte := 0x14#8

/-- Whether a kind code names a request (R172, Section 12.1). -/
def isRequestKind (k : Byte) : Bool := 1 ≤ k.toNat && k.toNat ≤ 20

/-! ## Taking a frame -/

/-- R171: the oldest held frame, if the handler may take it now. -/
def takeable (s : State) : Option Frame :=
  if s.rc.handler = .ready ∧ s.li.reply = none then s.li.held.head? else none

/-- R162, R171: taking the oldest frame empties its buffer. -/
def dropFrame (s : State) : State := s.setLi { s.li with held := s.li.held.tail }

/-- R173: the reply is built and placed in the reply slot. -/
def placeReply (f : Frame) (a : Answer) (s : State) : State :=
  s.setLi { s.li with reply := some ⟨f.kind, f.tag, a.payload, f.kind = kindReset && a.accepted⟩ }

/-- A request's own checks and effect, given its payload: the answer and the state it leaves. -/
abbrev RequestBody := List Byte → State → Answer × State

/-- A request kind: its code (Section 12.1), its payload length (R188), its run-state check (R170), and its own checks
and effect. -/
structure RequestForm where
  kind : Byte
  length : Nat
  gate : RunState → Option Status
  body : RequestBody

/-- R172: the checks after the kind, in their order: the payload length, the run state, the kind's own. -/
def answerRequest (q : RequestForm) (f : Frame) (s : State) : Answer × State :=
  if f.payload.length ≠ q.length then (.refuse .length, s)
  else match q.gate s.rc.run with
    | some status => (.refuse status, s)
    | none => q.body f.payload s

/-- R171 to R173: a request of this form, if the oldest held frame is one and may be taken: it is taken, checked,
carried out and answered in one action. -/
def handleRequest (q : RequestForm) (s : State) : State :=
  match takeable s with
  | none => s
  | some f =>
    if f.kind = q.kind then
      let r := answerRequest q f (dropFrame s)
      placeReply f r.1 r.2
    else s

/-- R170: taken in every run state. -/
def gateAlways : RunState → Option Status := fun _ => none

/-- R170: taken in IDLE alone, STATE otherwise. -/
def gateIdle : RunState → Option Status
  | .idle => none
  | .running => some .state
  | .stopping => some .state

/-- R170: START_RUN: STATE in RUNNING, BUSY in STOPPING. -/
def gateStart : RunState → Option Status
  | .idle => none
  | .running => some .state
  | .stopping => some .busy

/-- R43, R172: the fields are checked first; the lowest failing index is named, and otherwise the request has its
effect. -/
def checked (checks : List (Nat × Bool)) (accept : Answer × State) (s : State) : Answer × State :=
  match lowestFailing checks with
  | some index => (.range index, s)
  | none => accept

/-- Whether a value lies outside a range. -/
def outside (lo hi v : Nat) : Bool := v < lo || hi < v

/-! ## Identification and status -/

/-- R185. -/
def identifyBody : RequestBody := fun _ s => (.ack identifyData, s)

/-- R164, R186: the latches copied into the reply are cleared in the same action. -/
def queryStatusBody : RequestBody := fun _ s =>
  (.ack (queryData s), s.setLi { s.li with latches := ⟨false, false, false, false, false⟩ })

/-! ## Distance, tracking and zones -/

/-- R15: the Distance Unit after an accepted SET_ODOMETRY taken at `now`. -/
def Du.setOdometry (n k timeout : Nat) (sense : Sense) (now : Nat) (d : Du) : Du :=
  let d' := { d.unknownPeriod with n := n, k := k, timeout := timeout, sense := sense, pos := 0 }
  { d' with standstill := d.standstill.map (fun _ => d'.timeoutAt now) }

/-- R15. -/
def setOdometryBody : RequestBody := fun p s =>
  checked [(1, outside 1 255 (u8 p 0)), (2, outside 0 3 (u8 p 1)), (3, (senseOfCode (u8 p 2)).isNone),
      (4, outside 50 5000 (u16 p 3))]
    (.ack [], commitDu noLatch
      (s.du.setOdometry (u8 p 0) (u8 p 1) (u16 p 3) ((senseOfCode (u8 p 2)).getD .normal) s.now) s) s

/-- R16: the motion state after PRESET_POSITION. -/
def motionPreset : MotionState → MotionState
  | .standstill => .standstill
  | .reverse => .reverse
  | .returning => .forward
  | .forward => .forward

/-- R16: the Distance Unit after an accepted PRESET_POSITION. -/
def Du.preset (step : Int) (d : Du) : Du :=
  { d.unknownPeriod with step := step, hwm := step, pos := 0, motion := motionPreset d.motion }

/-- R16. -/
def presetPositionBody : RequestBody := fun p s => (.ack [], commitDu noLatch (s.du.preset (s32 p 0)) s)

/-- R124. -/
def setTrackingBody : RequestBody := fun p s =>
  checked [(1, outside 0 7 (u8 p 0)), (2, outside 1 15 (u8 p 1)), (3, outside 16 4096 (u16 p 2)),
      (4, outside 0 255 (u8 p 4)), (5, outside 8 56 (u8 p 5)), (6, outside 8 56 (u8 p 6))]
    (.ack [], s.setIt { s.it with settings := ⟨u8 p 0, u8 p 1, u16 p 2, u8 p 4, ⟨u8 p 5, u8 p 6⟩⟩ }) s

/-- R118: the zone record that a SET_ZONE payload brings. -/
def zoneOfPayload (p : List Byte) : Zone where
  enable := (boolOfCode (u8 p 2)).getD false
  start := s32 p 3
  stop := s32 p 7
  channels := BitVec.ofNat 12 (u16 p 11)
  action := (zoneActionOfCode (u8 p 13)).getD .mask
  kind := u8 p 14

/-- The tracker with one zone record of a side replaced. -/
def It.setZone (x : Side) (n : Fin 8) (z : Zone) (t : It) : It :=
  { t with zones := t.zones.set x ((t.zones.get x).set n z) }

/-- R122. -/
def setZoneBody : RequestBody := fun p s =>
  checked [(1, (sideOfCode (u8 p 0)).isNone), (2, outside 0 7 (u8 p 1)), (3, (boolOfCode (u8 p 2)).isNone),
      (5, s32 p 7 < s32 p 3), (6, 4096 ≤ u16 p 11), (7, (zoneActionOfCode (u8 p 13)).isNone),
      (8, outside 1 15 (u8 p 14))]
    (.ack [], s.setIt
      (s.it.setZone ((sideOfCode (u8 p 0)).getD .a) (Fin.ofNat 8 (u8 p 1)) (zoneOfPayload p))) s

/-- R123. -/
def setOffsetBody : RequestBody := fun p s => (.ack [], s.setIt { s.it with offset := s32 p 0 })

/-! ## Runs and resets -/

/-- R175: the run starts. -/
def startRun (s : State) : State :=
  let s1 := s.setRc { s.rc with run := .running, cause := .none }
  let s2 := (s1.setCs .a (Cs.startRun s.ps.active.a)).setCs .b (Cs.startRun s.ps.active.b)
  placeRunstate causeStart none s2

/-- R175. -/
def startRunBody : RequestBody := fun _ s =>
  if s.ps.active.planEmpty then (.refuse .noPlan, s)
  else (.ack (be16 s.ps.generation.toNat ++ beS32 s.du.hwm), startRun s)

/-- R177: the ACK carries the run state and the stop cause as the request leaves them. -/
def stopRunBody : RequestBody := fun _ s =>
  (.ack [byte (beginStop .request s).rc.run.code, byte (beginStop .request s).rc.cause.code], beginStop .request s)

/-- R181. -/
def resetBody : RequestBody := fun p s =>
  match scopeOfCode (u8 p 0) with
  | none => (.range 1, s)
  | some scope => (.ack [byte scope.code], s.setRc { s.rc with handler := .awaitingReset scope false })

/-- R172, R173: a held frame whose kind names no request is taken and answered with UNKNOWN. -/
def handleUnknown (s : State) : State :=
  match takeable s with
  | none => s
  | some f => if isRequestKind f.kind then s else placeReply f (.refuse .unknown) (dropFrame s)

/-! ## The meanings -/

/-- IDENTIFY (R185). -/
def identifyForm : RequestForm := ⟨kindIdentify, 0, gateAlways, identifyBody⟩

/-- IDENTIFY (R185). -/
def execIdentify (s : State) : Host.Outcome State Fault Refusal := .next (s.whenLive (handleRequest identifyForm))

/-- QUERY_STATUS (R186). -/
def queryStatusForm : RequestForm := ⟨kindQueryStatus, 0, gateAlways, queryStatusBody⟩

/-- QUERY_STATUS (R186). -/
def execQueryStatus (s : State) : Host.Outcome State Fault Refusal := .next (s.whenLive (handleRequest queryStatusForm))

/-- SET_ODOMETRY (R15). -/
def setOdometryForm : RequestForm := ⟨kindSetOdometry, 5, gateIdle, setOdometryBody⟩

/-- SET_ODOMETRY (R15). -/
def execSetOdometry (s : State) : Host.Outcome State Fault Refusal := .next (s.whenLive (handleRequest setOdometryForm))

/-- PRESET_POSITION (R16). -/
def presetPositionForm : RequestForm := ⟨kindPresetPosition, 4, gateIdle, presetPositionBody⟩

/-- PRESET_POSITION (R16). -/
def execPresetPosition (s : State) : Host.Outcome State Fault Refusal := .next (s.whenLive (handleRequest presetPositionForm))

/-- SET_TRACKING (R124). -/
def setTrackingForm : RequestForm := ⟨kindSetTracking, 7, gateIdle, setTrackingBody⟩

/-- SET_TRACKING (R124). -/
def execSetTracking (s : State) : Host.Outcome State Fault Refusal := .next (s.whenLive (handleRequest setTrackingForm))

/-- SET_ZONE (R122). -/
def setZoneForm : RequestForm := ⟨kindSetZone, 15, gateAlways, setZoneBody⟩

/-- SET_ZONE (R122). -/
def execSetZone (s : State) : Host.Outcome State Fault Refusal := .next (s.whenLive (handleRequest setZoneForm))

/-- SET_OFFSET (R123). -/
def setOffsetForm : RequestForm := ⟨kindSetOffset, 4, gateAlways, setOffsetBody⟩

/-- SET_OFFSET (R123). -/
def execSetOffset (s : State) : Host.Outcome State Fault Refusal := .next (s.whenLive (handleRequest setOffsetForm))

/-- START_RUN (R175). -/
def startRunForm : RequestForm := ⟨kindStartRun, 0, gateStart, startRunBody⟩

/-- START_RUN (R175). -/
def execStartRun (s : State) : Host.Outcome State Fault Refusal := .next (s.whenLive (handleRequest startRunForm))

/-- STOP_RUN (R177). -/
def stopRunForm : RequestForm := ⟨kindStopRun, 0, gateAlways, stopRunBody⟩

/-- STOP_RUN (R177). -/
def execStopRun (s : State) : Host.Outcome State Fault Refusal := .next (s.whenLive (handleRequest stopRunForm))

/-- RESET (R181). -/
def resetForm : RequestForm := ⟨kindReset, 1, gateAlways, resetBody⟩

/-- RESET (R181). -/
def execReset (s : State) : Host.Outcome State Fault Refusal := .next (s.whenLive (handleRequest resetForm))

/-- UNKNOWN_REQUEST_KIND (R172). -/
def execUnknownRequestKind (s : State) : Host.Outcome State Fault Refusal := .next (s.whenLive handleUnknown)

end Sys2Proof.Machine
end

