-- ==== Sys2Proof/Machine/SideRequests.lean ====
section
/-! DEFINITION. The requests that act on a side: SET_SIDE, ARM_SIDE, DISARM_SIDE, CLEAR_FAULT, SET_CHANNEL and
SET_PROFILE (R27 to R31, R35), with the side-state moves of R19. -/
namespace Sys2Proof.Machine

/-- The side that a payload's first byte names, once it is known to name one. -/
def sideOfPayload (p : List Byte) : Side := (sideOfCode (u8 p 0)).getD .a

/-- The check that a payload's first byte names a side (field 1). -/
def sideCheck (p : List Byte) : Nat × Bool := (1, (sideOfCode (u8 p 0)).isNone)

/-! ## SET_SIDE -/

/-- R29: the dispositions of a SET_SIDE payload, events 0 to 7. -/
def dispositionsOfPayload (p : List Byte) : Dispositions :=
  let d := fun i => (dispositionOfCode (u8 p (3 + i))).getD .ignore
  ⟨d 0, d 1, d 2, d 3, d 4, d 5, d 6, d 7⟩

/-- R29: entry into LOWERED with the supply off, and the notification of a departure from ARMED. -/
def lowerSupply (x : Side) (s : State) : State :=
  notifyDeparture x (s.sc.get x).state (s.modifySc x (Sc.supplyOff .lowered))

/-- R29: ARMING at the new level: the ramp starts or restarts, HVFLT is looked at (R24), and a departure from ARMED
is notified. -/
def rampAgain (x : Side) (s : State) : State :=
  notifyDeparture x (s.sc.get x).state (supplyFaultCheck x (enterArming x s))

/-- R29: the side state after a change of level. -/
def moveForLevel (x : Side) (s : State) : State :=
  match (s.sc.get x).state with
  | .parked => s
  | .lowered => s
  | .fault => s
  | .arming => if (s.sc.get x).level = .off then lowerSupply x s else rampAgain x s
  | .armed => if (s.sc.get x).level = .off then lowerSupply x s else rampAgain x s

/-- R29: the settings are replaced together; a new level moves the side state. -/
def setSide (x : Side) (level : HvLevel) (autoArm : Bool) (d : Dispositions) (s : State) : State :=
  let s' := s.modifySc x (fun sc => { sc with level := level, autoArm := autoArm, dispositions := d })
  if level = (s.sc.get x).level then s' else moveForLevel x s'

/-- R29. -/
def setSideBody : RequestBody := fun p s =>
  checked ([sideCheck p, (2, (levelOfCode (u8 p 1)).isNone), (3, (boolOfCode (u8 p 2)).isNone)] ++
      (List.range 8).map (fun i => (4 + i, (dispositionOfCode (u8 p (3 + i))).isNone)))
    (.ack [], setSide (sideOfPayload p) ((levelOfCode (u8 p 1)).getD .off) ((boolOfCode (u8 p 2)).getD false)
      (dispositionsOfPayload p) s) s

/-! ## ARM_SIDE, DISARM_SIDE, CLEAR_FAULT -/

/-- R27: ARM_SIDE on a side. -/
def armSide (x : Side) (s : State) : Answer × State :=
  match (s.sc.get x).state with
  | .parked => (.refuse .side, s)
  | .fault => (.refuse .side, s)
  | .lowered =>
    if (s.sc.get x).level = .off then (.range 0, s) else (.ack [], supplyFaultCheck x (enterArming x s))
  | .arming => (.ack [], s)
  | .armed => (.ack [], s)

/-- R27. -/
def armSideBody : RequestBody := fun p s => checked [sideCheck p] (armSide (sideOfPayload p) s) s

/-- R28: DISARM_SIDE on a side. -/
def disarmSide (x : Side) (s : State) : State :=
  match (s.sc.get x).state with
  | .parked => s
  | .lowered => s
  | .fault => s
  | .arming => lowerSupply x s
  | .armed => lowerSupply x s

/-- R28. -/
def disarmSideBody : RequestBody := fun p s => checked [sideCheck p] (.ack [], disarmSide (sideOfPayload p) s) s

/-- R30: CLEAR_FAULT with target SIDE. -/
def clearSideFault (x : Side) (s : State) : State :=
  if (s.sc.get x).state = .fault then
    if (s.sc.get x).lowered then
      supplyFaultCheck x (autoArmCheck x (s.modifySc x (fun sc => { sc with state := .lowered })))
    else s.modifySc x (fun sc => { sc with state := .parked })
  else s

/-- R30: CLEAR_FAULT with a channel as target. -/
def clearChannelFault (x : Side) (ch : Channel) (s : State) : State :=
  s.modifySc x (fun sc => { sc with faults := sc.faults.set ch .none })

/-- R30: target FFh is the side, 0 to 11 a channel (Section 12.2). -/
def clearFaultBody : RequestBody := fun p s =>
  checked [sideCheck p, (2, !(u8 p 1 = 255 || u8 p 1 ≤ 11))]
    (.ack [], if u8 p 1 = 255 then clearSideFault (sideOfPayload p) s
      else clearChannelFault (sideOfPayload p) (channelOf (u8 p 1)) s) s

/-! ## SET_CHANNEL and SET_PROFILE -/

/-- R31: the channel record of a SET_CHANNEL payload. -/
def recordOfPayload (p : List Byte) : ChannelRecord :=
  ⟨(roleOfCode (u8 p 2)).getD .off, channelOf (u8 p 3), u8 p 4, u8 p 5⟩

/-- R31: the new record becomes the channel's pending record; in IDLE it takes effect at once. -/
def setChannel (x : Side) (ch : Channel) (r : ChannelRecord) (s : State) : State :=
  let s' := s.modifySc x (fun sc => { sc with pendingRecords := sc.pendingRecords.set ch (some r) })
  if s.rc.run = .idle then recordTakesEffect x s' ch else s'

/-- R31. -/
def setChannelBody : RequestBody := fun p s =>
  checked [sideCheck p, (2, outside 0 11 (u8 p 1)), (3, (roleOfCode (u8 p 2)).isNone),
      (4, outside 0 11 (u8 p 3)), (5, outside 1 15 (u8 p 4)), (6, outside 1 15 (u8 p 5))]
    (.ack [], setChannel (sideOfPayload p) (channelOf (u8 p 1)) (recordOfPayload p) s) s

/-- R52: a list once profile `n` of its side has the values `v`; a list that does not name it stays. -/
def ShotList.profileChanged (l : ShotList) (n : Fin 4) (v : Profile) : ShotList :=
  if l.names n then l.withProfile n v else l

/-- The lists of side `x` in a slot once a profile of that side has changed (R52). -/
def slotProfileChanged (x : Side) (n : Fin 4) (v : Profile) (slot : PerSide ShotList) : PerSide ShotList :=
  slot.set x ((slot.get x).profileChanged n v)

/-- R35, R52: the profile is replaced, and the durations and plan times of the lists that name it follow. -/
def setProfile (x : Side) (n : Fin 4) (v : Profile) (s : State) : State :=
  (s.modifySc x (fun sc => { sc with profiles := sc.profiles.set n v })).setPs
    { s.ps with active := slotProfileChanged x n v s.ps.active, staged := slotProfileChanged x n v s.ps.staged }

/-- R35: outside IDLE a profile that the side's active list names is refused with IN_USE. -/
def setProfileBody : RequestBody := fun p s =>
  let x := sideOfPayload p
  let n : Fin 4 := Fin.ofNat 4 (u8 p 1)
  checked [sideCheck p, (2, outside 0 3 (u8 p 1)), (3, outside 0 400 (u16 p 2)), (4, outside 1 10 (u8 p 4)),
      (5, outside 10 2000 (u16 p 5))]
    (if s.rc.run ≠ .idle ∧ (s.ps.active.get x).names n = true then (.refuse .inUse, s)
      else (.ack [], setProfile x n ⟨u16 p 2, u8 p 4, u16 p 5⟩ s)) s

/-! ## The meanings -/

/-- SET_SIDE (R29). -/
def setSideForm : RequestForm := ⟨kindSetSide, 11, gateAlways, setSideBody⟩

/-- SET_SIDE (R29). -/
def execSetSide (s : State) : Host.Outcome State Fault Refusal := .next (s.whenLive (handleRequest setSideForm))

/-- ARM_SIDE (R27). -/
def armSideForm : RequestForm := ⟨kindArmSide, 1, gateAlways, armSideBody⟩

/-- ARM_SIDE (R27). -/
def execArmSide (s : State) : Host.Outcome State Fault Refusal := .next (s.whenLive (handleRequest armSideForm))

/-- DISARM_SIDE (R28). -/
def disarmSideForm : RequestForm := ⟨kindDisarmSide, 1, gateAlways, disarmSideBody⟩

/-- DISARM_SIDE (R28). -/
def execDisarmSide (s : State) : Host.Outcome State Fault Refusal := .next (s.whenLive (handleRequest disarmSideForm))

/-- CLEAR_FAULT (R30). -/
def clearFaultForm : RequestForm := ⟨kindClearFault, 2, gateAlways, clearFaultBody⟩

/-- CLEAR_FAULT (R30). -/
def execClearFault (s : State) : Host.Outcome State Fault Refusal := .next (s.whenLive (handleRequest clearFaultForm))

/-- SET_CHANNEL (R31). -/
def setChannelForm : RequestForm := ⟨kindSetChannel, 6, gateAlways, setChannelBody⟩

/-- SET_CHANNEL (R31). -/
def execSetChannel (s : State) : Host.Outcome State Fault Refusal := .next (s.whenLive (handleRequest setChannelForm))

/-- SET_PROFILE (R35). -/
def setProfileForm : RequestForm := ⟨kindSetProfile, 7, gateAlways, setProfileBody⟩

/-- SET_PROFILE (R35). -/
def execSetProfile (s : State) : Host.Outcome State Fault Refusal := .next (s.whenLive (handleRequest setProfileForm))

end Sys2Proof.Machine
end

