-- ==== Sys2Proof/Machine/PlanRequests.lean ====
section
/-! DEFINITION. The plan requests: WRITE_SHOT with its 37 fields (R43 to R46), CLEAR_STAGED (R47), READ_SHOT (R48) and
SWAP_PLANS (R53). -/
namespace Sys2Proof.Machine

/-! ## WRITE_SHOT -/

/-- The position of gate record `g`'s first byte (R188). -/
def gateOffset (g : Nat) : Nat := 9 + 9 * g

/-- The field index of gate record `g`'s purpose (R43). -/
def gateField (g : Nat) : Nat := 10 + 7 * g

/-- R188: gate record `g` of a WRITE_SHOT payload. -/
def gateOfPayload (p : List Byte) (g : Nat) : Gate :=
  let o := gateOffset g
  { purpose := (purposeOfCode (u8 p o)).getD .detect
    mode := (modeOfCode (u8 p (o + 1))).getD .absolute
    start := u16 p (o + 2)
    width := u16 p (o + 4)
    t1 := u8 p (o + 6)
    t2 := u8 p (o + 7)
    conditionCode := p.getD (o + 8) 0 }

/-- R44: the gate count, and the gates it lets be checked: none when the count fails. -/
def gatesInUse (p : List Byte) : Nat := if u8 p 8 ≤ 4 then u8 p 8 else 0

/-- R44: the checks of one gate record in use. -/
def gateFieldChecks (p : List Byte) (g : Nat) : List (Nat × Bool) :=
  let o := gateOffset g
  let f := gateField g
  [(f, (purposeOfCode (u8 p o)).isNone), (f + 1, (modeOfCode (u8 p (o + 1))).isNone),
    (f + 2, outside 0 3999 (u16 p (o + 2))), (f + 3, outside 1 4000 (u16 p (o + 4))),
    (f + 4, outside 1 199 (u8 p (o + 6))), (f + 5, outside 1 199 (u8 p (o + 7))),
    (f + 6, purposeOfCode (u8 p o) ≠ some .reference && (conditionOfCode (u8 p (o + 8))).isNone)]

/-- R44: whether a cadence is one of 1, 2 and 4. -/
def cadenceOk (c : Nat) : Bool := c = 1 || c = 2 || c = 4

/-- R44: the field-by-field checks; `count` is the count of the side's STAGED list. -/
def shotFieldChecks (p : List Byte) (count : Nat) : List (Nat × Bool) :=
  [sideCheck p, (2, 15 < u8 p 1 || count < u8 p 1), (3, outside 0 11 (u8 p 2)), (4, outside 0 11 (u8 p 3)),
    (5, outside 0 160 (u8 p 4)), (6, outside 0 3 (u8 p 5)), (7, !cadenceOk (u8 p 6)),
    (8, (if cadenceOk (u8 p 6) then u8 p 6 else 1) ≤ u8 p 7), (9, 4 < u8 p 8)] ++
    (List.range (gatesInUse p)).flatMap (gateFieldChecks p)

/-- Whether a gate compares T1 with T2: its condition is INSIDE or OUTSIDE (R45). A REFERENCE gate's condition is
ignored (R42; log 12). -/
def Gate.usesT2 (g : Gate) : Bool :=
  g.purpose ≠ .reference &&
    (conditionOfCode g.conditionCode.toNat = some .inside || conditionOfCode g.conditionCode.toNat = some .outside)

/-- R45: the checks that relate one field to another, for gate `g` of the gates in use; `before` are the gates of
lower number. With two REFERENCE gates of which the first is FOLLOW, the first's start mode fails by R45's table and has
the lower index, which R43 names; R45's sentence on a second REFERENCE gate, read by itself, would name the second's
purpose (DEDUCED, unsafe, log 25). -/
def gateRelationChecks (before : List Gate) (i : Nat) (g : Gate) : List (Nat × Bool) :=
  let f := gateField i
  [(f, g.purpose = .reference && before.any (fun h => h.purpose = .reference)),
    (f, g.purpose = .coupling && before.any (fun h => h.purpose = .coupling)),
    (f + 1, g.mode = .follow &&
      !before.any (fun h => h.purpose = .reference && h.mode = .absolute)),
    (f + 3, g.mode = .absolute && Config.traceEnd < g.start + g.width),
    (f + 5, g.usesT2 && g.t2 ≤ g.t1)]

/-- R45: the relation checks of a gate list. -/
def relationChecks (gs : List Gate) : List (Nat × Bool) :=
  gs.zipIdx.flatMap (fun q => gateRelationChecks (gs.take q.2) q.2 q.1)

/-- R43: the gate list that a payload brings. -/
def gatesOfPayload (p : List Byte) : List Gate := (List.range (gatesInUse p)).map (gateOfPayload p)

/-- R43 to R45: the lowest failing field: R45's checks are made with every field in range (log 11). -/
def writeShotFailing (p : List Byte) (count : Nat) : Option Nat :=
  match lowestFailing (shotFieldChecks p count) with
  | some i => some i
  | none => lowestFailing (relationChecks (gatesOfPayload p))

/-- R41: the shot record of a payload. -/
def shotOfPayload (p : List Byte) : Shot where
  tx := channelOf (u8 p 2)
  rx := channelOf (u8 p 3)
  gain := u8 p 4
  profile := Fin.ofNat 4 (u8 p 5)
  cadence := u8 p 6
  phase := u8 p 7
  gates := gatesOfPayload p

/-- R46: a list with a shot written at an index: appended at the count, else replaced. -/
def ShotList.write (l : ShotList) (i : Nat) (sh : PlannedShot) : ShotList :=
  .ofShots (if i < l.shots.length then l.shots.set i sh else l.shots ++ [sh])

/-- R46: the shot with its duration under the profile values in force. -/
def plannedShot (sc : Sc) (sh : Shot) : PlannedShot := ⟨sh, sh.durationWith sc.profiles[sh.profile]⟩

/-- R46: the accepted write. -/
def writeShot (x : Side) (i : Nat) (sh : PlannedShot) (s : State) : Answer × State :=
  let l := (s.ps.staged.get x).write i sh
  (.ack (byte l.shots.length :: be16 sh.duration ++ be16 l.planTime),
    s.setPs { s.ps with staged := s.ps.staged.set x l })

/-- R43: BUSY while a swap is pending, before any field is looked at. -/
def writeShotBody : RequestBody := fun p s =>
  if s.ps.swapPending then (.refuse .busy, s)
  else
    let x := sideOfPayload p
    match writeShotFailing p (s.ps.staged.get x).shots.length with
    | some i => (.range i, s)
    | none => writeShot x (u8 p 1) (plannedShot (s.sc.get x) (shotOfPayload p)) s

/-! ## CLEAR_STAGED, READ_SHOT, SWAP_PLANS -/

/-- R47, Section 12.2: the sides that a CLEAR_STAGED code names; 2 is BOTH. -/
def sidesOfCode : Nat → Option (List Side)
  | 0 => some [.a]
  | 1 => some [.b]
  | 2 => some [.a, .b]
  | _ => none

/-- R47: the STAGED lists of these sides are emptied. -/
def clearStaged (sides : List Side) (s : State) : State :=
  s.setPs { s.ps with staged := sides.foldl (fun slot x => slot.set x ShotList.reset) s.ps.staged }

/-- R47: after the common checks comes BUSY, and then the side. A side code that names none while a swap is pending
is answered BUSY, as R43 answers WRITE_SHOT (log 23). -/
def clearStagedBody : RequestBody := fun p s =>
  if s.ps.swapPending then (.refuse .busy, s)
  else match sidesOfCode (u8 p 0) with
    | none => (.range 1, s)
    | some sides => (.ack [], clearStaged sides s)

/-- The slot that a READ_SHOT code names (Section 12.2). -/
def slotOfCode (ps : Ps) : Nat → Option (PerSide ShotList)
  | 0 => some ps.active
  | 1 => some ps.staged
  | _ => none

/-- R48. -/
def readShotBody : RequestBody := fun p s =>
  checked [(1, (slotOfCode s.ps (u8 p 0)).isNone), (2, (sideOfCode (u8 p 1)).isNone), (3, outside 0 15 (u8 p 2))]
    (.ack (readShotData s.ps.generation
      (((slotOfCode s.ps (u8 p 0)).getD s.ps.active).get ((sideOfCode (u8 p 1)).getD .a)) (u8 p 2)), s) s

/-- The data of a SWAP_PLANS reply (R53, R189): the outcome code and the generation. -/
def swapData (outcome : Nat) (generation : BitVec 16) : List Byte := byte outcome :: be16 generation.toNat

/-- R53. In IDLE the flag is off (R57), and the swap is carried out at once. -/
def swapPlansBody : RequestBody := fun _ s =>
  if s.rc.run = .idle then (.ack (swapData 0 (swapPlans s).ps.generation), swapPlans s)
  else if s.ps.swapPending then (.refuse .busy, s)
  else (.ack (swapData 1 s.ps.generation), s.setPs { s.ps with swapPending := true })

/-! ## The meanings -/

/-- WRITE_SHOT (R43). -/
def writeShotForm : RequestForm := ⟨kindWriteShot, 45, gateAlways, writeShotBody⟩

/-- WRITE_SHOT (R43). -/
def execWriteShot (s : State) : Host.Outcome State Fault Refusal := .next (s.whenLive (handleRequest writeShotForm))

/-- CLEAR_STAGED (R47). -/
def clearStagedForm : RequestForm := ⟨kindClearStaged, 1, gateAlways, clearStagedBody⟩

/-- CLEAR_STAGED (R47). -/
def execClearStaged (s : State) : Host.Outcome State Fault Refusal := .next (s.whenLive (handleRequest clearStagedForm))

/-- READ_SHOT (R48). -/
def readShotForm : RequestForm := ⟨kindReadShot, 3, gateAlways, readShotBody⟩

/-- READ_SHOT (R48). -/
def execReadShot (s : State) : Host.Outcome State Fault Refusal := .next (s.whenLive (handleRequest readShotForm))

/-- SWAP_PLANS (R53). -/
def swapPlansForm : RequestForm := ⟨kindSwapPlans, 0, gateAlways, swapPlansBody⟩

/-- SWAP_PLANS (R53). -/
def execSwapPlans (s : State) : Host.Outcome State Fault Refusal := .next (s.whenLive (handleRequest swapPlansForm))

end Sys2Proof.Machine
end

