-- ==== Sys2Proof/Machine/Handler.lean ====
section
/-! DEFINITION. The Request Handler taking the oldest held frame, whatever its kind, inside another block's action
(R171, R182). -/
namespace Sys2Proof.Machine

/-- The twenty request kinds (R170, Section 12.1). -/
def requestForms : List RequestForm :=
  [identifyForm, queryStatusForm, setOdometryForm, presetPositionForm, setTrackingForm, setSideForm, armSideForm,
    disarmSideForm, clearFaultForm, setChannelForm] ++
  [setProfileForm, writeShotForm, clearStagedForm, readShotForm, swapPlansForm, setZoneForm, setOffsetForm,
    startRunForm, stopRunForm, resetForm]

/-- R171, R172: the oldest held frame is taken and executed, if the handler may take one. -/
def takeOldest (s : State) : State :=
  match takeable s with
  | none => s
  | some f =>
    match requestForms.find? (fun q => q.kind = f.kind) with
    | some q => handleRequest q s
    | none => handleUnknown s

end Sys2Proof.Machine
end

