-- ==== Sys2Proof/Machine/Resets.lean ====
section
/-! DEFINITION. The three resets (Section 11.4): RESET with scope RUN (R182), RESET with scope FULL (R183), and the
pin reset (R184), block by block from the reset tables (R17, R39, R59, R77, R102, R127, R142, R153, R169, R187). -/
namespace Sys2Proof.Machine

/-! ## Scope RUN -/

/-- R127, R142: the table and the verdict lists emptied, the settings kept. -/
def It.resetRun (t : It) : It := { t with table := Vector.replicate 64 .free, verdicts := ⟨[], []⟩ }

/-- R169: the reply slot, the status slots and the flaw queue emptied. -/
def Li.emptyPlaces (l : Li) : Li :=
  { l with
    reply := none
    motion := none
    runstate := none
    side := ⟨none, none⟩
    coupling := ⟨none, none⟩
    gap := ⟨none, none⟩
    flawQueue := [] }

/-- R182: the acts of a RUN reset, in its order; with the handler READY again the oldest held frame is taken at
once. -/
def resetRunActs (s : State) : State :=
  let s1 := (s.setSe .a Se.reset).setSe .b Se.reset
  let s2 := ((s1.setIt s1.it.resetRun).setGr .a Gr.reset).setGr .b Gr.reset
  let s3 := (s2.setLi s2.li.emptyPlaces).setPs { s2.ps with swapPending := false }
  let s4 := recordsTakeEffect (s3.setRc { s3.rc with run := .idle, cause := .resetRun, drain := .none })
  let s5 := placeRunstate causeReset none s4
  takeOldest (s5.setRc { s5.rc with handler := .ready })

/-! ## Scope FULL -/

/-- R17, FULL column: all but the last input pair. -/
def Du.resetFull (d : Du) : Du := Du.reset d.lastPair

/-- R39, FULL column: the carriage flag and a debounce in progress are kept, and the input levels stand. -/
def Sc.resetFull (sc : Sc) : Sc :=
  { Sc.reset sc.lowered sc.hvrdy sc.hvflt with carriageInput := sc.carriageInput, candidate := sc.candidate }

/-- R169, FULL column: the rate, the frame in transmission and the HOLD_IN level are kept. The table does not list a run of
unmarked characters in progress (R158); here it does not survive, so the next unmarked character sets FORMAT again
(DESIGN CHOICE, unsafe, log 26). -/
def Li.resetFull (l : Li) : Li :=
  { Li.reset l.rate l.holdIn with runstate := none, ordinal := 0, tx := l.tx }

/-- R183: the acts of a FULL reset. The engines are IDLE when a side leaves ARMED, so its notification finds
nothing to abort. -/
def resetFullActs (s : State) : State :=
  let s1 := { s with
    du := s.du.resetFull
    sc := ⟨s.sc.a.resetFull, s.sc.b.resetFull⟩
    ps := Ps.reset
    se := ⟨Se.reset, Se.reset⟩
    cs := ⟨Cs.reset, Cs.reset⟩
    it := It.reset
    gr := ⟨Gr.reset, Gr.reset⟩
    li := s.li.resetFull
    rc := ⟨.idle, .resetFull, .none, .ready⟩ }
  placeRunstate causeReset none s1

/-- R181: an awaited reset acts at the end of its ACK's transmission. -/
def actAwaited (scope : Scope) (act : State → State) (s : State) : State :=
  if s.rc.handler = .awaitingReset scope true then act s else s

/-! ## The pin reset -/

/-- R168, R184: RESET_N goes low: the frame in transmission is cut and the shots in flight are withdrawn. The levels
that the outputs take while it is low are those of Pins.lean. -/
def pinResetAssert (s : State) : State :=
  let s1 := (s.setSe .a Se.reset).setSe .b Se.reset
  { s1 with li := { s1.li with tx := none }, boundary := none, pinReset := true }

/-- R184: RESET_N is released: every block takes its pin-reset values, from the input levels found then. -/
def pinResetRelease (pins : Pins) (s : State) : State where
  du := Du.reset ⟨pins.ea, pins.eb⟩
  sc := ⟨Sc.reset pins.carA pins.hvrdyA pins.hvfltA, Sc.reset pins.carB pins.hvrdyB pins.hvfltB⟩
  ps := Ps.reset
  se := ⟨Se.reset, Se.reset⟩
  cs := ⟨Cs.reset, Cs.reset⟩
  it := It.reset
  gr := ⟨Gr.reset, Gr.reset⟩
  li := Li.reset (LinkRate.ofStraps pins.rate1 pins.rate0) (!pins.holdIn)
  rc := Rc.reset
  pending := s.pending
  now := s.now
  pinReset := false
  boundary := none
  free := s.free

/-! ## The meanings -/

/-- RESET_RUN_ACTS (R182). -/
def execResetRunActs (s : State) : Host.Outcome State Fault Refusal :=
  .next (s.whenLive (actAwaited .run resetRunActs))

/-- RESET_FULL_ACTS (R183). -/
def execResetFullActs (s : State) : Host.Outcome State Fault Refusal :=
  .next (s.whenLive (actAwaited .full resetFullActs))

/-- PIN_RESET_ASSERT (R184). RESET_N that is low already does not go low. -/
def execPinResetAssert (after : Nat) (s : State) : Host.Outcome State Fault Refusal :=
  .next ((s.advance after).whenLive pinResetAssert)

/-- PIN_RESET_RELEASE (R184). RESET_N that is not low is not released. -/
def execPinResetRelease (after : Nat) (pins : Pins) (s : State) : Host.Outcome State Fault Refusal :=
  .next (if s.pinReset then pinResetRelease pins (s.advance after) else s.advance after)

end Sys2Proof.Machine
end

