-- ==== Sys2Proof/Machine/Dispatch.lean ====
section
/-! DEFINITION. The meaning of each command. -/
namespace Sys2Proof.Machine

/-- A command's effect on everything but the queue. -/
def exec (i : Instr) (s : State) : Host.Outcome State Fault Refusal :=
  match i with
  -- identification and status
  | .identify => Sys2Proof.Machine.execIdentify s
  | .queryStatus => Sys2Proof.Machine.execQueryStatus s
  -- settings
  | .setOdometry => Sys2Proof.Machine.execSetOdometry s
  | .presetPosition => Sys2Proof.Machine.execPresetPosition s
  | .setTracking => Sys2Proof.Machine.execSetTracking s
  -- sides
  | .setSide => Sys2Proof.Machine.execSetSide s
  | .armSide => Sys2Proof.Machine.execArmSide s
  | .disarmSide => Sys2Proof.Machine.execDisarmSide s
  | .clearFault => Sys2Proof.Machine.execClearFault s
  | .setChannel => Sys2Proof.Machine.execSetChannel s
  | .setProfile => Sys2Proof.Machine.execSetProfile s
  -- plans
  | .writeShot => Sys2Proof.Machine.execWriteShot s
  | .clearStaged => Sys2Proof.Machine.execClearStaged s
  | .readShot => Sys2Proof.Machine.execReadShot s
  | .swapPlans => Sys2Proof.Machine.execSwapPlans s
  -- zones
  | .setZone => Sys2Proof.Machine.execSetZone s
  | .setOffset => Sys2Proof.Machine.execSetOffset s
  -- runs
  | .startRun => Sys2Proof.Machine.execStartRun s
  | .stopRun => Sys2Proof.Machine.execStopRun s
  | .reset => Sys2Proof.Machine.execReset s
  | .unknownRequestKind => Sys2Proof.Machine.execUnknownRequestKind s
  -- encoder
  | .forwardCount after first => Sys2Proof.Machine.execForwardCount after first s
  | .reverseCount after => Sys2Proof.Machine.execReverseCount after s
  | .illegalTransition after => Sys2Proof.Machine.execIllegalTransition after s
  | .standstillTimerExpiry => Sys2Proof.Machine.execStandstillTimerExpiry s
  -- side inputs
  | .carriageInputChange after side => Sys2Proof.Machine.execCarriageInputChange after side s
  | .debounceExpiry side => Sys2Proof.Machine.execDebounceExpiry side s
  | .hvrdyArrival after side => Sys2Proof.Machine.execHvrdyArrival after side s
  | .hvrdyFall after side => Sys2Proof.Machine.execHvrdyFall after side s
  | .hvfltAsserted after side level => Sys2Proof.Machine.execHvfltAsserted after side level s
  | .rampTimerExpiry side => Sys2Proof.Machine.execRampTimerExpiry side s
  -- plan and channel steps
  | .planSwapAtBoundary => Sys2Proof.Machine.execPlanSwapAtBoundary s
  | .channelRecordTakesEffect side channel => Sys2Proof.Machine.execChannelRecordTakesEffect side channel s
  -- shots and tracking
  | .shotCompletion side load trace => Sys2Proof.Machine.execShotCompletion side load trace s
  | .stepEvaluation side => Sys2Proof.Machine.execStepEvaluation side s
  | .clusterRelease => Sys2Proof.Machine.execClusterRelease s
  -- drain
  | .drainReleasePhase => Sys2Proof.Machine.execDrainReleasePhase s
  | .drainEnd => Sys2Proof.Machine.execDrainEnd s
  -- link
  | .characterReceived after character => Sys2Proof.Machine.execCharacterReceived after character s
  | .idleTimerExpiry => Sys2Proof.Machine.execIdleTimerExpiry s
  | .holdInAssert after => Sys2Proof.Machine.execHoldInAssert after s
  | .holdInRelease after => Sys2Proof.Machine.execHoldInRelease after s
  | .transmissionStart => Sys2Proof.Machine.execTransmissionStart s
  | .transmissionEnd => Sys2Proof.Machine.execTransmissionEnd s
  -- resets
  | .resetRunActs => Sys2Proof.Machine.execResetRunActs s
  | .resetFullActs => Sys2Proof.Machine.execResetFullActs s
  | .pinResetAssert after => Sys2Proof.Machine.execPinResetAssert after s
  | .pinResetRelease after pins => Sys2Proof.Machine.execPinResetRelease after pins s

end Sys2Proof.Machine
end

