-- ==== Sys2Proof/Machine/Pins.lean ====
section
/-! DEFINITION. The levels of the output pins (R21, R38, R154, R163, R168, R184, R191); `true` is the high level. -/
namespace Sys2Proof.Machine

/-- R154: the levels of a frame's bits in the order in which they stand on the line, one bit time each. -/
def TxFrame.bits (f : TxFrame) : List Bool := f.characters.flatMap characterLevels

/-- R154, R168, R184: the level of TXD. The line shows the bit that the time since the frame's beginning gives; it is
high between frames, after a frame's last bit, and while RESET_N is low. -/
def txd (s : State) : Bool :=
  match s.li.tx with
  | none => true
  | some f => s.pinReset || f.bits.getD ((s.now - f.start) / s.li.rate.bitTime) true

/-- The output pins of R191. The FE group's shot parameters are `InFlight.params` (R65). `alert = true` is the open-drain
output left undriven. -/
structure OutputPins where
  txd : Bool
  holdOut : Bool
  alert : Bool
  hvenA1 : Bool
  hvenA0 : Bool
  hvenB1 : Bool
  hvenB0 : Bool
deriving DecidableEq, Repr

/-- R191: one bit of side `x`'s supply enable code. -/
def supplyEnableBit (s : State) (x : Side) (n : Nat) : Bool := (supplyEnable s x).code.testBit n

/-- R191: the levels that the part drives: HOLD_OUT and ALERT are asserted low, and HVEN_x1 and HVEN_x0 carry the
supply command's level code. -/
def outputPins (s : State) : OutputPins where
  txd := txd s
  holdOut := !holdOut s
  alert := !alert s
  hvenA1 := supplyEnableBit s .a 1
  hvenA0 := supplyEnableBit s .a 0
  hvenB1 := supplyEnableBit s .b 1
  hvenB0 := supplyEnableBit s .b 0

end Sys2Proof.Machine
end

