-- ==== Sys2Proof/Safety.lean ====
section
/-! DEFINITION. The laws of the device as predicates on the state, and the moments at which commands act. The
statements of Certificates/ are made of these. -/
namespace Sys2Proof.Machine

/-! ## Laws of the device -/

/-- R3, R4, R11, R12, R13, R15: the Distance Unit's values lie in their ranges. -/
def Du.law (d : Du) : Prop :=
  1 ≤ d.n ∧ d.n ≤ 255 ∧ d.k ≤ 3 ∧ 50 ≤ d.timeout ∧ d.timeout ≤ 5000 ∧
  Config.minStep ≤ d.step ∧ d.step ≤ Config.maxStep ∧ Config.minStep ≤ d.hwm ∧ d.hwm ≤ Config.maxStep ∧
  d.pos < d.stepLength d.step ∧
  (∀ p, d.period = some p → 1 ≤ p ∧ p ≤ Config.maxPeriod ∧ d.reference.isSome) ∧
  (d.period = none → d.fast = false) ∧
  (d.standstill = none ↔ d.motion = .standstill)

/-- R21, R22: the supply is driven only in ARMING and ARMED, a raised carriage means PARKED or FAULT, and the ramp
timer runs in ARMING only. -/
def Sc.law (c : Sc) : Prop :=
  (c.supply = if c.state = .arming ∨ c.state = .armed then c.level else .off) ∧
  ((c.state = .arming ∨ c.state = .armed) → c.level ≠ .off) ∧
  (c.lowered = false → c.state = .parked ∨ c.state = .fault) ∧
  (c.lowered = true → c.state ≠ .parked) ∧
  (c.ramp.isSome ↔ c.state = .arming)

/-- R40, R50 to R52: a list holds at most 16 shots, and its durations and plan time are current under its side's
profiles. -/
def ShotList.law (sc : Sc) (l : ShotList) : Prop :=
  l.shots.length ≤ Config.listShots ∧ l.planTime = planTimeOf l.shots ∧
  ∀ p ∈ l.shots, p.duration = p.shot.durationWith sc.profiles[p.shot.profile]

/-- R52: every list of both slots is current. -/
def plansCurrent (s : State) : Prop :=
  ∀ x : Side, (s.ps.active.get x).law (s.sc.get x) ∧ (s.ps.staged.get x).law (s.sc.get x)

/-- R93, R94: the supervised set is that of the ACTIVE list, the counts lie in 0 to 15 with at most one above 0, and
a channel is UNSUPERVISED, with both counts 0, exactly when it is not in the set. -/
def Cs.law (l : ShotList) (c : Cs) : Prop :=
  c.supervised = l.supervised ∧
  ∀ ch : Channel,
    c.ratings[ch].bad ≤ 15 ∧ c.ratings[ch].good ≤ 15 ∧ (c.ratings[ch].bad = 0 ∨ c.ratings[ch].good = 0) ∧
    (c.ratings[ch].state = .unsupervised ↔ c.supervised.getLsbD ch.val = false) ∧
    (c.ratings[ch].state = .unsupervised → c.ratings[ch].bad = 0 ∧ c.ratings[ch].good = 0)

/-- R93, R94, for both sides. -/
def couplingLaw (s : State) : Prop := ∀ x : Side, (s.cs.get x).law (s.ps.active.get x)

/-- R105: for each side and key, at most one indication is OPEN. -/
def keysUnique (t : It) : Prop :=
  ∀ (i j : Fin 64) (a b : Indication) (m n : Nat),
    t.table[i] = .opened a m → t.table[j] = .opened b n →
    a.side = b.side → a.shot = b.shot → a.gate = b.gate → i = j

/-- R160: the receiver in HUNTING has an empty buffer and a stopped timer. In ASSEMBLING its timer runs and its buffer
holds less than a whole frame of an admissible payload length (R156, R159). -/
def Receiver.law (r : Receiver) : Prop :=
  (r.assembling = false → r.buffer = [] ∧ r.idle = none) ∧
  (r.assembling = true → r.idle.isSome ∧ 1 ≤ r.buffer.length ∧ r.unmarkedRun = false ∧
    (2 ≤ r.buffer.length →
      Receiver.payloadLength r.buffer ≤ Config.maxPayload ∧
      r.buffer.length < Receiver.payloadLength r.buffer + 6))

/-- R162, R165: two held frames, 24 FLAW reports, and 1 to 8 ranges in a GAP report. -/
def Li.law (l : Li) : Prop :=
  l.receiver.law ∧ l.held.length ≤ Config.heldPlaces ∧ l.flawQueue.length ≤ Config.flawPlaces ∧
  ∀ (x : Side) (p : Pending GapReport), l.gap.get x = some p →
    1 ≤ p.report.ranges.length ∧ p.report.ranges.length ≤ Config.gapRanges

/-- R57, R76, R179: in IDLE both engines are IDLE, no entry is in use, no gap is open, no swap is pending. Outside
STOPPING no drain is under way. -/
def runLaw (s : State) : Prop :=
  (s.rc.run = .idle →
    enginesIdle s = true ∧ s.it.empty = true ∧ (s.gr.get .a).noneOpen = true ∧ (s.gr.get .b).noneOpen = true ∧
    s.ps.swapPending = false) ∧
  (s.rc.run ≠ .stopping → s.rc.drain = .none)

/-- Both sides' Side Controllers keep their law. -/
def sideLaw (s : State) : Prop := ∀ x : Side, (s.sc.get x).law

/-! ## Laws of step evaluation and of the Indication Table

They hold between commands while RESET_N is released; while it is low the tracker's registers wait for the release
(log 16). -/

/-- The fire steps awaiting side `x`'s step evaluation: those of its zone verdicts (R120). -/
def State.awaiting (s : State) (x : Side) : List Int := (s.it.verdicts.get x).map (fun v => v.step)

/-- The fire step up to which side `x` has evaluated: the high-water mark while its engine is IDLE. -/
def State.evaluatedTo (s : State) (x : Side) : Int :=
  match (s.se.get x).firing with
  | none => s.du.hwm
  | some f => f.step - 1

/-- R61, R62, R70, R120: what a FIRING engine holds. Its current and owed steps follow one another up to the high-water
mark and are the steps awaiting evaluation; the step record has entries of shots reached so far, each once. -/
def Firing.law (awaiting : List Int) (hwm : Int) (f : Firing) : Prop :=
  awaiting = (List.range (f.owed + 1)).map (fun k : Nat => f.step + (k : Int)) ∧ f.step + f.owed = hwm ∧
  f.due.Nodup ∧ List.Sublist (f.record.map (fun e => e.shot)) (f.due.take f.position) ∧
  ∀ fl, f.inFlight = some fl → f.due[f.position]? = some fl.shot

/-- R8, R9, R120: between commands no boundary is under way and no finished record waits, an IDLE engine has no step
awaiting, and in a run that has begun firing the car stands at or behind the high-water mark. -/
def evaluationLaw (s : State) : Prop :=
  s.pinReset = false →
    s.boundary = none ∧
    (∀ x : Side, (s.se.get x).finished = [] ∧
      ((s.se.get x).firing = none → s.awaiting x = []) ∧
      ∀ f, (s.se.get x).firing = some f → f.law (s.awaiting x) s.du.hwm) ∧
    (s.rc.run = .running → (enginesIdle s = false ∨ s.it.empty = false) → s.du.step ≤ s.du.hwm)

/-- R106: the entries in use by a side never exceed its cap. -/
def capLaw (t : It) : Prop := ∀ x : Side, t.usedBy x ≤ t.settings.cap.get x

/-- R124. -/
def Tracking.law (g : Tracking) : Prop :=
  g.bridge ≤ 7 ∧ 1 ≤ g.minHits ∧ g.minHits ≤ 15 ∧ 16 ≤ g.maxLength ∧ g.maxLength ≤ 4096 ∧ g.window ≤ 255 ∧
  ∀ x : Side, 8 ≤ g.cap.get x ∧ g.cap.get x ≤ 56

/-- R140: the minimum hits, the hit count, the extent and the maximum length of a closed indication. -/
def Indication.closedLaw (g : Tracking) (i : Indication) : Prop :=
  1 ≤ i.hits ∧ g.minHits ≤ i.hits ∧ (i.hits : Int) ≤ i.last - i.first + 1 ∧
  i.last - i.first + 1 < (g.maxLength : Int) + 1

/-- R104, R113, R115: an OPEN indication of a side that has evaluated up to `evaluated`. -/
def Indication.openLaw (g : Tracking) (evaluated : Int) (missRun : Nat) (i : Indication) : Prop :=
  1 ≤ i.hits ∧ (i.hits : Int) ≤ i.last - i.first + 1 ∧ i.last ≤ evaluated ∧
  evaluated - i.first + 1 < (g.maxLength : Int) ∧ missRun ≤ g.bridge

/-- R128: every HELD entry is a member of one cluster of its side and generation, whose head alone holds the cluster's
fields; the join orders of a cluster are 1 to its member count, each once. -/
def clusterLaw (t : It) : Prop :=
  (∀ (i : Fin 64) (a : Indication) (m : Membership), t.table[i] = .held a m →
    (m.cluster.isSome = true ↔ m.head = i) ∧
    ∃ (b : Indication) (o : Nat) (c : Cluster), t.table[m.head] = .held b ⟨m.head, o, some c⟩ ∧
      b.side = a.side ∧ b.generation = a.generation ∧ 1 ≤ m.order ∧ m.order ≤ c.count ∧
      c.count ≤ Config.clusterMembers) ∧
  (∀ (i j : Fin 64) (a b : Indication) (m n : Membership), t.table[i] = .held a m → t.table[j] = .held b n →
    m.head = n.head → m.order = n.order → i = j) ∧
  (∀ (h : Fin 64) (a : Indication) (o : Nat) (c : Cluster), t.table[h] = .held a ⟨h, o, some c⟩ →
    ∀ k : Nat, 1 ≤ k → k ≤ c.count →
      ∃ (i : Fin 64) (b : Indication) (m : Membership), t.table[i] = .held b m ∧ m.head = h ∧ m.order = k)

/-- R104, R106, R124, R128, R140: the law of the Indication Table. -/
def trackerLaw (s : State) : Prop :=
  s.pinReset = false →
    s.it.settings.law ∧ capLaw s.it ∧ clusterLaw s.it ∧
    (∀ (i : Fin 64) (a : Indication) (m : Membership), s.it.table[i] = .held a m → a.closedLaw s.it.settings) ∧
    (∀ (i : Fin 64) (a : Indication) (n : Nat), s.it.table[i] = .opened a n →
      a.openLaw s.it.settings (s.evaluatedTo a.side) n)

/-- R140: the law of a FLAW report under the tracking settings of its release. -/
def FlawReport.law (g : Tracking) (r : FlawReport) : Prop :=
  1 ≤ r.members.length ∧ r.members.length ≤ Config.clusterMembers ∧
  ∀ i ∈ r.members, i.side = r.side ∧ i.generation = r.generation ∧ i.closedLaw g

/-! ## When a command acts -/

/-- RESET_N is not low. -/
def live (s : State) : Prop := s.pinReset = false

/-- R171: the Request Handler may take a frame, and `f` is the oldest held one. -/
def mayTake (s : State) (f : Frame) (rest : List Frame) : Prop :=
  s.pinReset = false ∧ s.rc.handler = .ready ∧ s.li.reply = none ∧ s.li.held = f :: rest

/-- The state once the oldest frame has been taken, leaving `rest` (R162, R171). -/
def taken (rest : List Frame) (s : State) : State := { s with li := { s.li with held := rest } }

/-- The state with a reply to `f` of this payload in the reply slot (R173). -/
def replied (f : Frame) (payload : List Byte) (s : State) : State :=
  { s with li := { s.li with reply := some ⟨f.kind, f.tag, payload, false⟩ } }

/-- The kind code and the fixed payload length of a request command (Sections 12.1, 12.3). -/
def requestForm : Instr → Option (Byte × Nat)
  | .identify => some (0x01#8, 0)
  | .queryStatus => some (0x02#8, 0)
  | .setOdometry => some (0x03#8, 5)
  | .presetPosition => some (0x04#8, 4)
  | .setTracking => some (0x05#8, 7)
  | .setSide => some (0x06#8, 11)
  | .armSide => some (0x07#8, 1)
  | .disarmSide => some (0x08#8, 1)
  | .clearFault => some (0x09#8, 2)
  | .setChannel => some (0x0A#8, 6)
  | .setProfile => some (0x0B#8, 7)
  | .writeShot => some (0x0C#8, 45)
  | .clearStaged => some (0x0D#8, 1)
  | .readShot => some (0x0E#8, 3)
  | .swapPlans => some (0x0F#8, 0)
  | .setZone => some (0x10#8, 15)
  | .setOffset => some (0x11#8, 4)
  | .startRun => some (0x12#8, 0)
  | .stopRun => some (0x13#8, 0)
  | .reset => some (0x14#8, 1)
  | .unknownRequestKind => none
  | .forwardCount _ _ => none
  | .reverseCount _ => none
  | .illegalTransition _ => none
  | .standstillTimerExpiry => none
  | .carriageInputChange _ _ => none
  | .debounceExpiry _ => none
  | .hvrdyArrival _ _ => none
  | .hvrdyFall _ _ => none
  | .hvfltAsserted _ _ _ => none
  | .rampTimerExpiry _ => none
  | .planSwapAtBoundary => none
  | .channelRecordTakesEffect _ _ => none
  | .shotCompletion _ _ _ => none
  | .stepEvaluation _ => none
  | .clusterRelease => none
  | .drainReleasePhase => none
  | .drainEnd => none
  | .characterReceived _ _ => none
  | .idleTimerExpiry => none
  | .holdInAssert _ => none
  | .holdInRelease _ => none
  | .transmissionStart => none
  | .transmissionEnd => none
  | .resetRunActs => none
  | .resetFullActs => none
  | .pinResetAssert _ => none
  | .pinResetRelease _ _ => none

end Sys2Proof.Machine
end

