-- ==== Sys2Proof/Certificates/Slice0/Obligations.lean ====
section
/-! DEFINITION. The statements for the provers. -/
open Sys2Proof Sys2Proof.Machine

/-! ## The queue, and reset -/

/-- A step is the command at the front of the queue; with an empty queue the block idles (log 19, the model's
choice). -/
def Obligations.StepRunsFrontCommand : Prop :=
  (∀ (c : Instr) (rest : List Instr) (s : State),
    s.pending = c :: rest → step s = exec c { s with pending := rest }) ∧
  (∀ s : State, s.pending = [] → step s = .next s)

/-- Every command answers a next state, and leaves the queue as it was. -/
def Obligations.EveryCommandAnswersNext : Prop :=
  ∀ (c : Instr) (s : State), ∃ t, exec c s = .next t ∧ t.pending = s.pending

/-- R17, R39, R59, R77, R102, R127, R153, R169, R187: the values after a pin reset, block by block, and the state right after
reset, which keeps the laws of the device. The levels of the input pins there (log 13), the time 0 (log 4) and the run of
unmarked characters (log 26) are the model's choices; the counter of the free value (log 7) is left open. -/
def Obligations.ResetKeepsLaws : Prop :=
  (State.reset.du.law ∧ sideLaw State.reset ∧ plansCurrent State.reset ∧ couplingLaw State.reset ∧
    keysUnique State.reset.it ∧ State.reset.li.law ∧ runLaw State.reset ∧ evaluationLaw State.reset ∧
    trackerLaw State.reset) ∧
  (∀ pair : EncoderPair, Du.reset pair =
    { lastPair := pair
      sense := .normal
      n := 16
      k := 0
      timeout := 500
      step := 0
      pos := 0
      hwm := 0
      motion := .standstill
      standstill := none
      reference := none
      period := none
      fast := false
      encoderError := false
      rangeEnd := false }) ∧
  (∀ lowered hvrdy hvflt : Bool, Sc.reset lowered hvrdy hvflt =
    { state := if lowered then .lowered else .parked
      lowered := lowered
      carriageInput := lowered
      candidate := none
      level := .off
      autoArm := false
      supply := .off
      ramp := none
      dispositions := ⟨.report, .report, .report, .report, .report, .report, .report, .report⟩
      channels := Vector.replicate 12 ⟨.off, 0, 3, 3⟩
      pendingRecords := Vector.replicate 12 none
      faults := Vector.replicate 12 .none
      profiles := Vector.replicate 4 ⟨0, 4, 100⟩
      hvrdy := hvrdy
      hvflt := hvflt }) ∧
  Cs.reset = ⟨Vector.replicate 12 ⟨.unsupervised, 0, 0⟩, 0⟩ ∧
  Gr.reset = ⟨⟨none, none, none, none, none⟩⟩ ∧
  It.reset =
    { table := Vector.replicate 64 .free
      settings := ⟨2, 2, 1024, 8, ⟨40, 40⟩⟩
      zones := ⟨Vector.replicate 8 ⟨false, 0, 0, 0, .mask, 0⟩, Vector.replicate 8 ⟨false, 0, 0, 0, .mask, 0⟩⟩
      offset := 0
      verdicts := ⟨[], []⟩ } ∧
  State.reset =
    { du := Du.reset ⟨false, false⟩
      sc := ⟨Sc.reset false false false, Sc.reset false false false⟩
      ps := ⟨⟨⟨[], 0⟩, ⟨[], 0⟩⟩, ⟨⟨[], 0⟩, ⟨[], 0⟩⟩, 0, false⟩
      se := ⟨⟨none, []⟩, ⟨none, []⟩⟩
      cs := ⟨Cs.reset, Cs.reset⟩
      it := It.reset
      gr := ⟨Gr.reset, Gr.reset⟩
      li :=
        { rate := .half
          receiver := ⟨false, [], false, none⟩
          held := []
          latches := ⟨false, false, false, false, false⟩
          reply := none
          motion := none
          runstate := some ⟨0, ⟨⟨false, false, false, false, true⟩, .idle, .powerOn, 0, 0, 0, .none⟩⟩
          side := ⟨none, none⟩
          coupling := ⟨none, none⟩
          gap := ⟨none, none⟩
          flawQueue := []
          ordinal := 1
          sequence := 0
          tx := none
          holdIn := false }
      rc := ⟨.idle, .powerOn, .none, .ready⟩
      pending := []
      now := 0
      pinReset := false
      boundary := none
      free := State.reset.free }

/-! ## Distance Unit -/

/-- R3: the length of a step. -/
def Obligations.StepLengthTable : Prop :=
  ∀ (d : Du) (z : Int), 1 ≤ d.n → d.n ≤ 255 → d.k ≤ 3 →
    (d.k = 0 → d.stepLength z = d.n) ∧
    (d.k = 1 → d.stepLength z = d.n + if z % 4 = 1 then 1 else 0) ∧
    (d.k = 2 → d.stepLength z = d.n + if z % 4 = 0 ∨ z % 4 = 2 then 1 else 0) ∧
    (d.k = 3 → d.stepLength z = d.n + if z % 4 = 3 then 0 else 1) ∧
    1 ≤ d.stepLength z ∧ d.stepLength z ≤ 256

/-- R1, R2, R4, R8, R10 to R14: a forward count inside a step, and a forward boundary that is not a fire boundary; then
what `commitDu` does with the MOTION slot, the table of directions with the pairs that counts bring, and FAST for a period
and a plan time. The MOTION report shows the values after the whole count (log 22, the model's reading). -/
def Obligations.ForwardCountOffFire : Prop :=
  (∀ (s : State) (after : Nat) (first : Side), live s →
    (s.du.pos + 1 < s.du.stepLength s.du.step →
      exec (.forwardCount after first) s = .next (commitDu noLatch
        { s.du with
          lastPair := s.du.forwardPair
          standstill := some (s.now + after + s.du.timeout * 20000)
          pos := s.du.pos + 1
          motion := if s.du.step < s.du.hwm then .returning else .forward } (s.advance after))) ∧
    (s.du.stepLength s.du.step ≤ s.du.pos + 1 → s.du.step < 2147483647 →
      ¬(s.rc.run = .running ∧ s.du.hwm < s.du.step + 1) →
      let period := match s.du.reference with
        | none => s.du.period
        | some r => some (min 16777215 (max 1 ((s.now + after - r) / 20)))
      exec (.forwardCount after first) s = .next (commitDu noLatch
        { s.du with
          lastPair := s.du.forwardPair
          standstill := some (s.now + after + s.du.timeout * 20000)
          step := s.du.step + 1
          pos := 0
          reference := some (s.now + after)
          period := period
          fast := match period with
            | none => false
            | some p => decide (p < max s.ps.active.a.planTime s.ps.active.b.planTime)
          motion := if s.du.step + 1 < s.du.hwm then .returning else .forward } (s.advance after)))) ∧
  (∀ (latch : MotionCauses) (d : Du) (s : State),
    let none' : MotionCauses := ⟨false, false, false, false⟩
    let causes : MotionCauses := ⟨latch.state || decide (d.motion ≠ s.du.motion),
      latch.fast || decide (d.fast ≠ s.du.fast), latch.encoderError, latch.rangeEnd⟩
    let report := fun c : MotionCauses =>
      MotionReport.mk c d.step d.hwm d.period d.motion d.fast d.encoderError d.rangeEnd
    (causes = none' → commitDu latch d s = { s with du := d }) ∧
    (causes ≠ none' → s.li.motion = none → commitDu latch d s = { s with
      du := d
      li := { s.li with motion := some ⟨s.li.ordinal, report causes⟩, ordinal := s.li.ordinal + 1 } }) ∧
    (∀ p : Pending MotionReport, causes ≠ none' → s.li.motion = some p → commitDu latch d s = { s with
      du := d
      li := { s.li with motion := some ⟨p.ordinal, report
        ⟨p.report.causes.state || causes.state, p.report.causes.fast || causes.fast,
          p.report.causes.encoderError || causes.encoderError,
          p.report.causes.rangeEnd || causes.rangeEnd⟩⟩ } })) ∧
  (∀ row ∈ [(EncoderPair.mk false false, EncoderPair.mk true false, EncoderPair.mk false true),
      (EncoderPair.mk true false, EncoderPair.mk true true, EncoderPair.mk false false),
      (EncoderPair.mk true true, EncoderPair.mk false true, EncoderPair.mk true false),
      (EncoderPair.mk false true, EncoderPair.mk false false, EncoderPair.mk true true)],
    decodeEncoder .normal row.1 row.2.1 = .forward ∧ decodeEncoder .normal row.1 row.2.2 = .reverse ∧
    decodeEncoder .swapped row.1 row.2.1 = .reverse ∧ decodeEncoder .swapped row.1 row.2.2 = .forward) ∧
  (∀ d : Du,
    decodeEncoder d.sense d.lastPair d.forwardPair = .forward ∧
    decodeEncoder d.sense d.lastPair d.reversePair = .reverse ∧
    decodeEncoder d.sense d.lastPair ⟨!d.lastPair.ea, !d.lastPair.eb⟩ = .illegal ∧
    decodeEncoder d.sense d.lastPair d.lastPair = .none) ∧
  (∀ (period : Option Nat) (plan : Nat), fastOf period plan = match period with
    | none => false
    | some p => decide (p < plan)) ∧
  noLatch = ⟨false, false, false, false⟩

/-- R4, R8, R55, R60, R119, R120: a fire boundary, and the zone verdicts appended at it. The order of the blocks' work is
the model's reading (log 8, log 9); the order of the two engines is the command's operand (log 6); a MOTION report shows the
values after the Distance Unit's own work (log 22, the model's reading). -/
def Obligations.FireBoundary : Prop :=
  (∀ (s : State) (after : Nat) (first : Side), live s →
    s.du.stepLength s.du.step ≤ s.du.pos + 1 → s.du.step < 2147483647 →
    s.rc.run = .running → s.du.hwm < s.du.step + 1 →
    let z := s.du.step + 1
    let period := match s.du.reference with
      | none => s.du.period
      | some r => some (min 16777215 (max 1 ((s.now + after - r) / 20)))
    let s1 := commitDu noLatch
      { s.du with
        lastPair := s.du.forwardPair
        standstill := some (s.now + after + s.du.timeout * 20000)
        step := z
        pos := 0
        hwm := z
        reference := some (s.now + after)
        period := period
        fast := fastOf period (max s.ps.active.a.planTime s.ps.active.b.planTime)
        motion := .forward } (s.advance after)
    let s2 := recordsTakeEffect (planSwapAtBoundary (s1.setBoundary (some z)))
    let s3 := releaseClusters (s2.setIt ((s2.it.appendVerdicts z).sealDue s2.du.hwm))
    let t := (engineBoundary (otherSide first) z (engineBoundary first z s3)).setBoundary none
    exec (.forwardCount after first) s = .next t ∧
      t.du.step = z ∧ t.du.hwm = z ∧ t.du.pos = 0 ∧ t.rc.run = .running) ∧
  (∀ (t : It) (z : Int),
    t.appendVerdicts z = { t with verdicts :=
      ⟨t.verdicts.a ++ [⟨z, Vector.ofFn (fun c => zoneOutcome t.zones.a t.offset z c)⟩],
        t.verdicts.b ++ [⟨z, Vector.ofFn (fun c => zoneOutcome t.zones.b t.offset z c)⟩]⟩ })

/-- R6: a forward range end. The MOTION trigger precedes the stop (log 8, the model's reading). The report shows the values
after the whole count, and whether RANGE_END is shown already is tested on the report pending before it (log 22: DEDUCED,
unsafe, the model's reading). -/
def Obligations.ForwardRangeEnd : Prop :=
  ∀ (s : State) (after : Nat) (first : Side), live s →
    s.du.stepLength s.du.step ≤ s.du.pos + 1 → s.du.step = 2147483647 →
    let trigger := match s.li.motion with
      | none => true
      | some p => !p.report.rangeEnd
    let s1 := commitDu ⟨false, false, false, trigger⟩
      { s.du with
        lastPair := s.du.forwardPair
        standstill := some (s.now + after + s.du.timeout * 20000)
        motion := if s.du.step < s.du.hwm then .returning else .forward
        rangeEnd := true } (s.advance after)
    (s.rc.run ≠ .running → exec (.forwardCount after first) s = .next s1) ∧
    (s.rc.run = .running → exec (.forwardCount after first) s = .next (beginStop .rangeEnd s1) ∧
      (beginStop .rangeEnd s1).rc.run ≠ .running ∧ (beginStop .rangeEnd s1).rc.cause = .rangeEnd)

/-- R5, R7: a reverse count, a reverse boundary, and a reverse range end. The MOTION report shows the values after the whole
count, and whether RANGE_END is shown already is tested on the report pending before it (log 22: DEDUCED, unsafe, the
model's reading). -/
def Obligations.ReverseCount : Prop :=
  ∀ (s : State) (after : Nat), live s →
    let d := { s.du with
      lastPair := s.du.reversePair
      standstill := some (s.now + after + s.du.timeout * 20000)
      reference := none
      period := none
      fast := false
      motion := .reverse }
    let trigger := match s.li.motion with
      | none => true
      | some p => !p.report.rangeEnd
    (0 < s.du.pos →
      exec (.reverseCount after) s = .next (commitDu noLatch { d with pos := s.du.pos - 1 } (s.advance after))) ∧
    (s.du.pos = 0 → -2147483648 < s.du.step →
      exec (.reverseCount after) s = .next (commitDu noLatch
        { d with step := s.du.step - 1, pos := s.du.stepLength (s.du.step - 1) - 1 } (s.advance after))) ∧
    (s.du.pos = 0 → s.du.step = -2147483648 →
      exec (.reverseCount after) s = .next (commitDu ⟨false, false, false, trigger⟩
        { d with rangeEnd := true } (s.advance after)))

/-- R2, R10, R11: an illegal transition, and the expiry of the standstill timer. The MOTION report of the expiry shows the
values after the whole expiry, with the period unknown, and whether ENCODER_ERROR is shown already is tested on the report
pending before the transition (log 22: DEDUCED, unsafe, the model's reading). -/
def Obligations.IllegalTransitionAndStandstill : Prop :=
  (∀ (s : State) (after : Nat), live s →
    let trigger := match s.li.motion with
      | none => true
      | some p => !p.report.encoderError
    exec (.illegalTransition after) s = .next (commitDu ⟨false, false, trigger, false⟩
      { s.du with lastPair := ⟨!s.du.lastPair.ea, !s.du.lastPair.eb⟩, encoderError := true } (s.advance after))) ∧
  (∀ (s : State) (t : Nat), live s → s.du.standstill = some t →
    exec .standstillTimerExpiry s = .next (commitDu noLatch
      { s.du with
        reference := none
        period := none
        fast := false
        motion := .standstill
        standstill := none } (s.advanceTo t))) ∧
  (∀ s : State, s.du.standstill = none → exec .standstillTimerExpiry s = .next s)

/-- R15, R170: SET_ODOMETRY. -/
def Obligations.SetOdometry : Prop :=
  ∀ (s : State) (f : Frame) (rest : List Frame),
    mayTake s f rest → f.kind = 0x03#8 → f.payload.length = 5 →
    (s.rc.run ≠ .idle → exec .setOdometry s = .next (replied f [0x04#8] (taken rest s))) ∧
    (s.rc.run = .idle →
      let n := u8 f.payload 0
      let k := u8 f.payload 1
      let sense := u8 f.payload 2
      let timeout := u16 f.payload 3
      exec .setOdometry s = .next (
        if n < 1 ∨ 255 < n then replied f [0x03#8, 1#8] (taken rest s)
        else if 3 < k then replied f [0x03#8, 2#8] (taken rest s)
        else if 1 < sense then replied f [0x03#8, 3#8] (taken rest s)
        else if timeout < 50 ∨ 5000 < timeout then replied f [0x03#8, 4#8] (taken rest s)
        else replied f [0x00#8] (commitDu noLatch
          { s.du with
            n := n
            k := k
            sense := if sense = 0 then .normal else .swapped
            timeout := timeout
            pos := 0
            reference := none
            period := none
            fast := false
            standstill := match s.du.standstill with
              | none => none
              | some _ => some (s.now + timeout * 20000) } (taken rest s))))

/-- R16, R170: PRESET_POSITION. -/
def Obligations.PresetPosition : Prop :=
  ∀ (s : State) (f : Frame) (rest : List Frame),
    mayTake s f rest → f.kind = 0x04#8 → f.payload.length = 4 →
    (s.rc.run ≠ .idle → exec .presetPosition s = .next (replied f [0x04#8] (taken rest s))) ∧
    (s.rc.run = .idle →
      exec .presetPosition s = .next (replied f [0x00#8] (commitDu noLatch
        { s.du with
          step := s32 f.payload 0
          hwm := s32 f.payload 0
          pos := 0
          reference := none
          period := none
          fast := false
          motion := if s.du.motion = .returning then .forward else s.du.motion } (taken rest s))))

/-! ## Side Controller: inputs -/

/-- R18: a change of the raw carriage input. -/
def Obligations.CarriageInputChange : Prop :=
  ∀ (s : State) (after : Nat) (x : Side), live s →
    let level := !(s.sc.get x).carriageInput
    exec (.carriageInputChange after x) s = .next ((s.advance after).modifySc x (fun sc =>
      { sc with
        carriageInput := level
        candidate := if level = (s.sc.get x).lowered then none else some ⟨level, s.now + after + 40000⟩ }))

/-- R18 to R20, R24 to R26: the flag takes the level of the candidate, and the side state moves. The engine is notified
after the event (log 10, the model's reading). -/
def Obligations.DebounceExpiry : Prop :=
  ∀ (s : State) (x : Side) (d : Debounce), live s → (s.sc.get x).candidate = some d →
    let s0 := (s.advanceTo d.deadline).modifySc x (fun sc => { sc with lowered := d.level, candidate := none })
    let armingNext := (s.sc.get x).autoArm = true ∧ (s.sc.get x).level ≠ .off
    (d.level = true → (s.sc.get x).state ≠ .parked →
      exec (.debounceExpiry x) s = .next (raiseSide x .carriageDown s0)) ∧
    (d.level = true → (s.sc.get x).state = .parked → ¬armingNext →
      exec (.debounceExpiry x) s = .next (raiseSide x .carriageDown (s0.modifySc x (fun sc =>
        { sc with state := .lowered, supply := .off, ramp := none })))) ∧
    (d.level = true → (s.sc.get x).state = .parked → armingNext →
      let s1 := raiseSide x .carriageDown (s0.modifySc x (fun sc =>
        { sc with state := .arming, supply := sc.level, ramp := some (max s.now d.deadline + 600000) }))
      exec (.debounceExpiry x) s = .next (
        if (s.sc.get x).hvflt then raiseSide x .hvFault (s1.modifySc x (fun sc =>
          { sc with state := .fault, supply := .off, ramp := none }))
        else s1)) ∧
    (d.level = false → (s.sc.get x).state = .fault →
      exec (.debounceExpiry x) s = .next (raiseSide x .carriageUp s0)) ∧
    (d.level = false → (s.sc.get x).state ≠ .fault →
      let s1 := raiseSide x .carriageUp (s0.modifySc x (fun sc =>
        { sc with state := .parked, supply := .off, ramp := none }))
      exec (.debounceExpiry x) s = .next (if (s.sc.get x).state = .armed then abortList x s1 else s1))

/-- R23: HVRDY rises and falls. -/
def Obligations.HvrdyEdges : Prop :=
  ∀ (s : State) (after : Nat) (x : Side), live s →
    ((s.sc.get x).hvrdy = false → (s.sc.get x).state = .arming →
      exec (.hvrdyArrival after x) s = .next (raiseSide x .armed ((s.advance after).modifySc x (fun sc =>
        { sc with hvrdy := true, state := .armed, ramp := none })))) ∧
    ((s.sc.get x).hvrdy = false → (s.sc.get x).state ≠ .arming →
      exec (.hvrdyArrival after x) s = .next ((s.advance after).modifySc x (fun sc =>
        { sc with hvrdy := true }))) ∧
    ((s.sc.get x).hvrdy = true → exec (.hvrdyArrival after x) s = .next (s.advance after)) ∧
    exec (.hvrdyFall after x) s = .next ((s.advance after).modifySc x (fun sc => { sc with hvrdy := false }))

/-- R23, R24, R26: HVFLT becomes asserted, and the ramp timer runs out. A fall of HVFLT changes the level alone
(log 14). The engine is notified after the event (log 10, the model's reading). -/
def Obligations.SupplyFaultAndRampTimeout : Prop :=
  ∀ (s : State) (x : Side), live s →
    (∀ after : Nat,
      let s1 := raiseSide x .hvFault ((s.advance after).modifySc x (fun sc =>
        { sc with hvflt := true, state := .fault, supply := .off, ramp := none }))
      ((s.sc.get x).hvflt = false → (s.sc.get x).state = .arming →
        exec (.hvfltAsserted after x true) s = .next s1) ∧
      ((s.sc.get x).hvflt = false → (s.sc.get x).state = .armed →
        exec (.hvfltAsserted after x true) s = .next (abortList x s1)) ∧
      ((s.sc.get x).hvflt = true ∨ ((s.sc.get x).state ≠ .arming ∧ (s.sc.get x).state ≠ .armed) →
        exec (.hvfltAsserted after x true) s = .next ((s.advance after).modifySc x (fun sc =>
          { sc with hvflt := true }))) ∧
      exec (.hvfltAsserted after x false) s = .next ((s.advance after).modifySc x (fun sc =>
        { sc with hvflt := false }))) ∧
    (∀ t : Nat, (s.sc.get x).ramp = some t → (s.sc.get x).state = .arming →
      exec (.rampTimerExpiry x) s = .next (raiseSide x .rampTimeout ((s.advanceTo t).modifySc x (fun sc =>
        { sc with state := .fault, supply := .off, ramp := none }))))

/-- R36, R37, R100, R101: a side event and a coupling event by their disposition: the report is created with the next
ordinal or updated in place, and HALT begins a stop in RUNNING. Each of the eight events has a disposition of its own, and each event
of a SIDE report, and each channel of a COUPLING report, a bit of its own. -/
def Obligations.EventDispositions : Prop :=
  (∀ d : Dispositions,
    [SideEvent.carriageDown, .carriageUp, .armed, .hvFault, .rampTimeout, .channelFault, .couplingLost,
      .couplingRegained].map d.get =
    [d.carriageDown, d.carriageUp, d.armed, d.hvFault, d.rampTimeout, d.channelFault, d.couplingLost,
      d.couplingRegained]) ∧
  [SideEvent.carriageDown, .carriageUp, .armed, .hvFault, .rampTimeout, .channelFault].map SideEvent.bit =
    [1, 2, 4, 8, 16, 32] ∧
  (∀ a c : Channel, (channelBit a).getLsbD c.val = decide (c = a)) ∧
  ∀ (s : State) (x : Side) (e : SideEvent) (ch : Channel),
    let d := (s.sc.get x).dispositions.get e
    let mark := d = .alert ∨ d = .halt
    let side := fun m : Bool => match s.li.side.get x with
      | none => { s.li with
          side := s.li.side.set x (some ⟨s.li.ordinal, ⟨e.bit, m⟩⟩), ordinal := s.li.ordinal + 1 }
      | some p => { s.li with
          side := s.li.side.set x (some ⟨p.ordinal, ⟨p.report.events ||| e.bit, p.report.mark || m⟩⟩) }
    let coupling := fun m : Bool => match s.li.coupling.get x with
      | none => { s.li with
          coupling := s.li.coupling.set x (some ⟨s.li.ordinal, ⟨channelBit ch, m⟩⟩)
          ordinal := s.li.ordinal + 1 }
      | some p => { s.li with
          coupling := s.li.coupling.set x
            (some ⟨p.ordinal, ⟨p.report.changed ||| channelBit ch, p.report.mark || m⟩⟩) }
    (d = .ignore → raiseSide x e s = s ∧ raiseCoupling x e ch s = s) ∧
    (d ≠ .ignore → (d ≠ .halt ∨ s.rc.run ≠ .running) →
      raiseSide x e s = { s with li := side (decide mark) } ∧
      raiseCoupling x e ch s = { s with li := coupling (decide mark) }) ∧
    (d = .halt → s.rc.run = .running →
      raiseSide x e s = beginStop .halt { s with li := side true } ∧
      raiseCoupling x e ch s = beginStop .halt { s with li := coupling true } ∧
      (raiseSide x e s).rc.run ≠ .running ∧ (raiseSide x e s).rc.cause = .halt)

/-! ## Side Controller: requests -/

/-- R29, R36: SET_SIDE, with the eight dispositions in bytes 3 to 10. A supply fault at the new ramp is raised before the departure from ARMED is notified (log 10, the
model's reading). -/
def Obligations.SetSide : Prop :=
  ∀ (s : State) (f : Frame) (rest : List Frame),
    mayTake s f rest → f.kind = 0x06#8 → f.payload.length = 11 →
    (∀ i : Nat, lowestFailing
        ([(1, decide (1 < u8 f.payload 0)), (2, decide (3 < u8 f.payload 1)), (3, decide (1 < u8 f.payload 2))] ++
          (List.range 8).map (fun j => (4 + j, decide (3 < u8 f.payload (3 + j))))) = some i →
      exec .setSide s = .next (replied f [0x03#8, BitVec.ofNat 8 i] (taken rest s))) ∧
    (∀ (x : Side) (level : HvLevel) (autoArm : Bool) (d : Dispositions),
      let code : Disposition → Nat := fun e => match e with
        | .ignore => 0
        | .report => 1
        | .alert => 2
        | .halt => 3
      u8 f.payload 0 = sideCode x → u8 f.payload 1 = level.code → u8 f.payload 2 = boolCode autoArm →
      u8 f.payload 3 = code d.carriageDown → u8 f.payload 4 = code d.carriageUp →
      u8 f.payload 5 = code d.armed → u8 f.payload 6 = code d.hvFault →
      u8 f.payload 7 = code d.rampTimeout → u8 f.payload 8 = code d.channelFault →
      u8 f.payload 9 = code d.couplingLost → u8 f.payload 10 = code d.couplingRegained →
      let s1 := (taken rest s).modifySc x (fun sc =>
        { sc with level := level, autoArm := autoArm, dispositions := d })
      let lowered := s1.modifySc x (fun sc => { sc with state := .lowered, supply := .off, ramp := none })
      let ramping := s1.modifySc x (fun sc =>
        { sc with state := .arming, supply := level, ramp := some (s.now + 600000) })
      let faulted := raiseSide x .hvFault (s1.modifySc x (fun sc =>
        { sc with state := .fault, supply := .off, ramp := none }))
      ((level = (s.sc.get x).level ∨ (s.sc.get x).state = .parked ∨ (s.sc.get x).state = .lowered ∨
          (s.sc.get x).state = .fault) →
        exec .setSide s = .next (replied f [0x00#8] s1)) ∧
      (level ≠ (s.sc.get x).level → level = .off → (s.sc.get x).state = .arming →
        exec .setSide s = .next (replied f [0x00#8] lowered)) ∧
      (level ≠ (s.sc.get x).level → level = .off → (s.sc.get x).state = .armed →
        exec .setSide s = .next (replied f [0x00#8] (abortList x lowered))) ∧
      (level ≠ (s.sc.get x).level → level ≠ .off → (s.sc.get x).state = .arming →
        exec .setSide s = .next (replied f [0x00#8] (if (s.sc.get x).hvflt then faulted else ramping))) ∧
      (level ≠ (s.sc.get x).level → level ≠ .off → (s.sc.get x).state = .armed →
        exec .setSide s = .next (replied f [0x00#8]
          (abortList x (if (s.sc.get x).hvflt then faulted else ramping)))))

/-- R22, R24, R27: ARM_SIDE. -/
def Obligations.ArmSide : Prop :=
  ∀ (s : State) (f : Frame) (rest : List Frame),
    mayTake s f rest → f.kind = 0x07#8 → f.payload.length = 1 →
    (1 < u8 f.payload 0 → exec .armSide s = .next (replied f [0x03#8, 1#8] (taken rest s))) ∧
    (∀ x : Side, u8 f.payload 0 = sideCode x →
      ((s.sc.get x).state = .parked ∨ (s.sc.get x).state = .fault →
        exec .armSide s = .next (replied f [0x08#8] (taken rest s))) ∧
      ((s.sc.get x).state = .arming ∨ (s.sc.get x).state = .armed →
        exec .armSide s = .next (replied f [0x00#8] (taken rest s))) ∧
      ((s.sc.get x).state = .lowered → (s.sc.get x).level = .off →
        exec .armSide s = .next (replied f [0x03#8, 0#8] (taken rest s))) ∧
      ((s.sc.get x).state = .lowered → (s.sc.get x).level ≠ .off →
        exec .armSide s = .next (replied f [0x00#8] (
          if (s.sc.get x).hvflt then raiseSide x .hvFault ((taken rest s).modifySc x (fun sc =>
            { sc with state := .fault, supply := .off, ramp := none }))
          else (taken rest s).modifySc x (fun sc =>
            { sc with state := .arming, supply := sc.level, ramp := some (s.now + 600000) })))))

/-- R28: DISARM_SIDE. The last two clauses say what the abort of an engine's list does (R26, R62, R72, R74). -/
def Obligations.DisarmSide : Prop :=
  (∀ (s : State) (f : Frame) (rest : List Frame),
    mayTake s f rest → f.kind = 0x08#8 → f.payload.length = 1 →
    (1 < u8 f.payload 0 → exec .disarmSide s = .next (replied f [0x03#8, 1#8] (taken rest s))) ∧
    (∀ x : Side, u8 f.payload 0 = sideCode x →
      let lowered := (taken rest s).modifySc x (fun sc =>
        { sc with state := .lowered, supply := .off, ramp := none })
      ((s.sc.get x).state = .arming → exec .disarmSide s = .next (replied f [0x00#8] lowered)) ∧
      ((s.sc.get x).state = .armed → exec .disarmSide s = .next (replied f [0x00#8] (abortList x lowered))) ∧
      ((s.sc.get x).state ≠ .arming → (s.sc.get x).state ≠ .armed →
        exec .disarmSide s = .next (replied f [0x00#8] (taken rest s))))) ∧
  (∀ (s : State) (x : Side), (s.se.get x).firing = none → abortList x s = s) ∧
  (∀ (s : State) (x : Side) (f : Firing), (s.se.get x).firing = some f →
    let l := s.ps.active.get x
    let skipped := fun (cause : GapCause) (shots : List Nat) => shots.filterMap (fun i => (l.shots[i]?).map (fun p =>
      OutcomeEntry.mk i p.shot.tx p.shot.rx (.skipped cause)))
    let record := f.record ++ skipped .sideNotReady (f.due.drop f.position)
    let owed := (List.range f.owed).map (fun k : Nat =>
      StepRecord.mk (f.step + 1 + k) f.generation (skipped .overrun (l.dueIndices (f.step + 1 + k))))
    abortList x s = evaluateFinished x (s.setSe x
      ⟨some { f with inFlight := none, record := record }, ⟨f.step, f.generation, record⟩ :: owed⟩) ∧
    (abortList x s).se.get x = ⟨none, []⟩)

/-- R20, R24, R30: CLEAR_FAULT. -/
def Obligations.ClearFault : Prop :=
  ∀ (s : State) (f : Frame) (rest : List Frame),
    mayTake s f rest → f.kind = 0x09#8 → f.payload.length = 2 →
    (1 < u8 f.payload 0 → exec .clearFault s = .next (replied f [0x03#8, 1#8] (taken rest s))) ∧
    (∀ x : Side, u8 f.payload 0 = sideCode x →
      let target := u8 f.payload 1
      let armingNext := (s.sc.get x).autoArm = true ∧ (s.sc.get x).level ≠ .off
      (target ≠ 255 → 11 < target →
        exec .clearFault s = .next (replied f [0x03#8, 2#8] (taken rest s))) ∧
      (∀ ch : Channel, target = ch.val →
        exec .clearFault s = .next (replied f [0x00#8] ((taken rest s).modifySc x (fun sc =>
          { sc with faults := sc.faults.set ch .none })))) ∧
      (target = 255 → (s.sc.get x).state ≠ .fault →
        exec .clearFault s = .next (replied f [0x00#8] (taken rest s))) ∧
      (target = 255 → (s.sc.get x).state = .fault → (s.sc.get x).lowered = false →
        exec .clearFault s = .next (replied f [0x00#8] ((taken rest s).modifySc x (fun sc =>
          { sc with state := .parked })))) ∧
      (target = 255 → (s.sc.get x).state = .fault → (s.sc.get x).lowered = true → ¬armingNext →
        exec .clearFault s = .next (replied f [0x00#8] ((taken rest s).modifySc x (fun sc =>
          { sc with state := .lowered })))) ∧
      (target = 255 → (s.sc.get x).state = .fault → (s.sc.get x).lowered = true → armingNext →
        exec .clearFault s = .next (replied f [0x00#8] (
          if (s.sc.get x).hvflt then raiseSide x .hvFault ((taken rest s).modifySc x (fun sc =>
            { sc with state := .fault, supply := .off, ramp := none }))
          else (taken rest s).modifySc x (fun sc =>
            { sc with state := .arming, supply := sc.level, ramp := some (s.now + 600000) })))))

/-- R31, R99: SET_CHANNEL. -/
def Obligations.SetChannel : Prop :=
  ∀ (s : State) (f : Frame) (rest : List Frame),
    mayTake s f rest → f.kind = 0x0A#8 → f.payload.length = 6 →
    (∀ i : Nat, lowestFailing
        [(1, decide (1 < u8 f.payload 0)), (2, decide (11 < u8 f.payload 1)), (3, decide (3 < u8 f.payload 2)),
          (4, decide (11 < u8 f.payload 3)), (5, decide (u8 f.payload 4 < 1 ∨ 15 < u8 f.payload 4)),
          (6, decide (u8 f.payload 5 < 1 ∨ 15 < u8 f.payload 5))] = some i →
      exec .setChannel s = .next (replied f [0x03#8, BitVec.ofNat 8 i] (taken rest s))) ∧
    (∀ (x : Side) (ch : Channel) (role : Nat) (partner : Channel) (lose regain : Nat) (r : Role),
      f.payload = [sideCode x, ch.val, role, partner.val, lose, regain].map (BitVec.ofNat 8) →
      roleOfCode role = some r → 1 ≤ lose → lose ≤ 15 → 1 ≤ regain → regain ≤ 15 →
      (s.rc.run ≠ .idle →
        exec .setChannel s = .next (replied f [0x00#8] ((taken rest s).modifySc x (fun sc =>
          { sc with pendingRecords := sc.pendingRecords.set ch (some ⟨r, partner, lose, regain⟩) })))) ∧
      (s.rc.run = .idle →
        let s1 := (taken rest s).modifySc x (fun sc =>
          { sc with
            channels := sc.channels.set ch ⟨r, partner, lose, regain⟩
            pendingRecords := sc.pendingRecords.set ch none })
        let rating := if (s.cs.get x).supervised.getLsbD ch.val then ChannelCoupling.mk .unproven 0 0
          else ChannelCoupling.mk .unsupervised 0 0
        exec .setChannel s = .next (replied f [0x00#8] (s1.setCs x
          { s.cs.get x with ratings := (s.cs.get x).ratings.set ch rating }))))

/-- R35, R52: SET_PROFILE. -/
def Obligations.SetProfile : Prop :=
  ∀ (s : State) (f : Frame) (rest : List Frame),
    mayTake s f rest → f.kind = 0x0B#8 → f.payload.length = 7 →
    let pre := u16 f.payload 2
    let pulse := u8 f.payload 4
    let recovery := u16 f.payload 5
    (∀ i : Nat, lowestFailing
        [(1, decide (1 < u8 f.payload 0)), (2, decide (3 < u8 f.payload 1)), (3, decide (400 < pre)),
          (4, decide (pulse < 1 ∨ 10 < pulse)), (5, decide (recovery < 10 ∨ 2000 < recovery))] = some i →
      exec .setProfile s = .next (replied f [0x03#8, BitVec.ofNat 8 i] (taken rest s))) ∧
    (∀ (x : Side) (n : Fin 4), u8 f.payload 0 = sideCode x → u8 f.payload 1 = n.val →
      pre ≤ 400 → 1 ≤ pulse → pulse ≤ 10 → 10 ≤ recovery → recovery ≤ 2000 →
      let names := fun l : ShotList => ∃ p ∈ l.shots, p.shot.profile = n
      let v : Profile := ⟨pre, pulse, recovery⟩
      let redone := fun l : ShotList =>
        let shots := l.shots.map (fun p => if p.shot.profile = n then ⟨p.shot, p.shot.durationWith v⟩ else p)
        ShotList.mk shots (planTimeOf shots)
      (s.rc.run ≠ .idle → names (s.ps.active.get x) →
        exec .setProfile s = .next (replied f [0x06#8] (taken rest s))) ∧
      ((s.rc.run = .idle ∨ ¬names (s.ps.active.get x)) →
        ∃ t, exec .setProfile s = .next (replied f [0x00#8] t) ∧
          t = { (taken rest s).modifySc x (fun sc => { sc with profiles := sc.profiles.set n v }) with
            ps := t.ps } ∧
          t.ps = { s.ps with
            active := s.ps.active.set x (t.ps.active.get x)
            staged := s.ps.staged.set x (t.ps.staged.get x) } ∧
          (names (s.ps.active.get x) → t.ps.active.get x = redone (s.ps.active.get x)) ∧
          (¬names (s.ps.active.get x) → t.ps.active.get x = s.ps.active.get x) ∧
          (names (s.ps.staged.get x) → t.ps.staged.get x = redone (s.ps.staged.get x)) ∧
          (¬names (s.ps.staged.get x) → t.ps.staged.get x = s.ps.staged.get x)))

/-- R32, R33: the effective roles and executability. -/
def Obligations.EffectiveRoles : Prop :=
  (∀ (sc : Sc) (c : Channel),
    let p := sc.channels[c].partner
    let paired := fun want : Role =>
      sc.channels[p].role = want ∧ sc.channels[p].partner = c ∧ sc.faults[p] = .none
    (sc.channels[c].role = .off → sc.effectiveRole c = .off) ∧
    (sc.channels[c].role ≠ .off → sc.faults[c] ≠ .none → sc.effectiveRole c = .faulted) ∧
    (sc.faults[c] = .none → sc.channels[c].role = .pe → sc.effectiveRole c = .pe) ∧
    (sc.faults[c] = .none → sc.channels[c].role = .tx → paired .rx → sc.effectiveRole c = .tx) ∧
    (sc.faults[c] = .none → sc.channels[c].role = .tx → ¬paired .rx → sc.effectiveRole c = .unpaired) ∧
    (sc.faults[c] = .none → sc.channels[c].role = .rx → paired .tx → sc.effectiveRole c = .rx) ∧
    (sc.faults[c] = .none → sc.channels[c].role = .rx → ¬paired .tx → sc.effectiveRole c = .unpaired)) ∧
  (∀ (sc : Sc) (sh : Shot), sc.executable sh = true ↔
    (sh.tx = sh.rx ∧ sc.effectiveRole sh.tx = .pe) ∨
    (sc.effectiveRole sh.tx = .tx ∧ sc.effectiveRole sh.rx = .rx ∧
      sc.channels[sh.tx].partner = sh.rx ∧ sc.channels[sh.rx].partner = sh.tx))

/-! ## Plan Store -/

/-- R41 to R43, R46, R49 to R51, R156, R188: WRITE_SHOT. Then: how the fields of a payload are read; the shot that a payload
brings, field by field; the listening end of gates of which a FOLLOW gate has a REFERENCE gate (R45 keeps the others out);
the duration; the plan time. Which field is named when both kinds of check fail is the model's reading (log 11). -/
def Obligations.WriteShot : Prop :=
  (∀ (s : State) (f : Frame) (rest : List Frame),
    mayTake s f rest → f.kind = 0x0C#8 → f.payload.length = 45 →
    (s.ps.swapPending = true → exec .writeShot s = .next (replied f [0x05#8] (taken rest s))) ∧
    (s.ps.swapPending = false → 1 < u8 f.payload 0 →
      exec .writeShot s = .next (replied f [0x03#8, 1#8] (taken rest s))) ∧
    (s.ps.swapPending = false → ∀ x : Side, u8 f.payload 0 = sideCode x →
      let old := (s.ps.staged.get x).shots
      let i := u8 f.payload 1
      let sh := shotOfPayload f.payload
      let duration := sh.durationWith (s.sc.get x).profiles[sh.profile]
      let new := if i < old.length then old.set i ⟨sh, duration⟩ else old ++ [⟨sh, duration⟩]
      (∀ n : Nat, writeShotFailing f.payload old.length = some n →
        exec .writeShot s = .next (replied f [0x03#8, BitVec.ofNat 8 n] (taken rest s))) ∧
      (writeShotFailing f.payload old.length = none →
        exec .writeShot s = .next (replied f
          (0x00#8 :: BitVec.ofNat 8 new.length :: be16 duration ++ be16 (planTimeOf new))
          ((taken rest s).setPs { s.ps with staged := s.ps.staged.set x ⟨new, planTimeOf new⟩ }))))) ∧
  (∀ (p : List Byte) (i : Nat),
    u8 p i = (p.getD i 0#8).toNat ∧ u16 p i = 256 * u8 p i + u8 p (i + 1) ∧
    s32 p i = (BitVec.ofNat 32 (16777216 * u8 p i + 65536 * u8 p (i + 1) + 256 * u8 p (i + 2) + u8 p (i + 3))).toInt) ∧
  (∀ (p : List Byte) (count : Nat), writeShotFailing p count = none →
    let sh := shotOfPayload p
    sh.tx.val = u8 p 2 ∧ sh.rx.val = u8 p 3 ∧ sh.gain = u8 p 4 ∧ sh.profile.val = u8 p 5 ∧ sh.cadence = u8 p 6 ∧
    sh.phase = u8 p 7 ∧ sh.gates.length = u8 p 8 ∧
    ∀ (g : Nat) (gate : Gate), sh.gates[g]? = some gate →
      gate.purpose.code = u8 p (9 + 9 * g) ∧ gate.mode.code = u8 p (10 + 9 * g) ∧
      gate.start = u16 p (11 + 9 * g) ∧ gate.width = u16 p (13 + 9 * g) ∧ gate.t1 = u8 p (15 + 9 * g) ∧
      gate.t2 = u8 p (16 + 9 * g) ∧ gate.conditionCode.toNat = u8 p (17 + 9 * g)) ∧
  (∀ (gates : List Gate) (reference : Nat),
    (∀ r ∈ gates, r.purpose = .reference → r.start + r.width = reference) →
    (∀ g ∈ gates, g.mode = .follow → ∃ r ∈ gates, r.purpose = .reference) →
    let ending := fun g : Gate =>
      if g.mode = .follow then min 4000 (reference + g.start + g.width) else g.start + g.width
    (∀ g ∈ gates, ending g ≤ listeningEnd gates) ∧
    (gates ≠ [] → ∃ g ∈ gates, ending g = listeningEnd gates) ∧ (gates = [] → listeningEnd gates = 0)) ∧
  (∀ (sh : Shot) (v : Profile),
    let ticks := v.preTrigger + v.pulse + listeningEnd sh.gates
    ∃ us : Nat, sh.durationWith v = us + v.recovery ∧ ticks ≤ 20 * us ∧ 20 * us < ticks + 20) ∧
  (∀ shots : List PlannedShot,
    let busy := fun r : Nat => ((shots.filter (fun p =>
      decide ((r : Int) % (p.shot.cadence : Int) = (p.shot.phase : Int)))).map (fun p => p.duration)).sum
    (∀ r : Nat, r < 4 → busy r ≤ planTimeOf shots) ∧ ∃ r : Nat, r < 4 ∧ planTimeOf shots = busy r)

/-- R43 to R45: a WRITE_SHOT payload passes when every field in use is in range and the fields agree; otherwise the lowest
failing field is named, a field out of range before fields that disagree (log 11, the model's reading). A REFERENCE gate's
condition is ignored in the comparison of its thresholds (log 12), and of two REFERENCE gates the first, if FOLLOW, is named
by its start mode (log 25), both the model's reading. The last clause says which index a list of checks names. -/
def Obligations.WriteShotChecks : Prop :=
  (∀ (p : List Byte) (count : Nat),
    let purpose := fun g : Nat => u8 p (9 + 9 * g)
    let mode := fun g : Nat => u8 p (10 + 9 * g)
    let start := fun g : Nat => u16 p (11 + 9 * g)
    let width := fun g : Nat => u16 p (13 + 9 * g)
    let t1 := fun g : Nat => u8 p (15 + 9 * g)
    let t2 := fun g : Nat => u8 p (16 + 9 * g)
    let condition := fun g : Nat => u8 p (17 + 9 * g)
    let cadenceOk := u8 p 6 = 1 ∨ u8 p 6 = 2 ∨ u8 p 6 = 4
    let outOfRange := fun i : Nat =>
      (i = 1 ∧ 1 < u8 p 0) ∨ (i = 2 ∧ (15 < u8 p 1 ∨ count < u8 p 1)) ∨ (i = 3 ∧ 11 < u8 p 2) ∨
      (i = 4 ∧ 11 < u8 p 3) ∨ (i = 5 ∧ 160 < u8 p 4) ∨ (i = 6 ∧ 3 < u8 p 5) ∨ (i = 7 ∧ ¬cadenceOk) ∨
      (i = 8 ∧ (cadenceOk → u8 p 6 ≤ u8 p 7) ∧ (¬cadenceOk → 1 ≤ u8 p 7)) ∨ (i = 9 ∧ 4 < u8 p 8) ∨
      (u8 p 8 ≤ 4 ∧ ∃ g : Nat, g < u8 p 8 ∧
        ((i = 10 + 7 * g ∧ 2 < purpose g) ∨ (i = 11 + 7 * g ∧ 1 < mode g) ∨ (i = 12 + 7 * g ∧ 3999 < start g) ∨
          (i = 13 + 7 * g ∧ (width g < 1 ∨ 4000 < width g)) ∨ (i = 14 + 7 * g ∧ (t1 g < 1 ∨ 199 < t1 g)) ∨
          (i = 15 + 7 * g ∧ (t2 g < 1 ∨ 199 < t2 g)) ∨ (i = 16 + 7 * g ∧ purpose g ≠ 2 ∧ 3 < condition g)))
    let disagree := fun i : Nat => ∃ g : Nat, g < u8 p 8 ∧
      ((i = 10 + 7 * g ∧ purpose g = 2 ∧ ∃ h : Nat, h < g ∧ purpose h = 2) ∨
        (i = 10 + 7 * g ∧ purpose g = 1 ∧ ∃ h : Nat, h < g ∧ purpose h = 1) ∨
        (i = 11 + 7 * g ∧ mode g = 1 ∧ ¬∃ h : Nat, h < g ∧ purpose h = 2 ∧ mode h = 0) ∨
        (i = 13 + 7 * g ∧ mode g = 0 ∧ 4000 < start g + width g) ∨
        (i = 15 + 7 * g ∧ purpose g ≠ 2 ∧ (condition g = 2 ∨ condition g = 3) ∧ t2 g ≤ t1 g))
    let least := fun (q : Nat → Prop) (i : Nat) => q i ∧ ∀ j : Nat, q j → i ≤ j
    (∀ i : Nat, writeShotFailing p count = some i ↔
      least outOfRange i ∨ ((∀ j : Nat, ¬outOfRange j) ∧ least disagree i)) ∧
    (writeShotFailing p count = none ↔
      (u8 p 0 ≤ 1 ∧ u8 p 1 ≤ 15 ∧ u8 p 1 ≤ count ∧ u8 p 2 ≤ 11 ∧ u8 p 3 ≤ 11 ∧ u8 p 4 ≤ 160 ∧ u8 p 5 ≤ 3 ∧
        (u8 p 6 = 1 ∨ u8 p 6 = 2 ∨ u8 p 6 = 4) ∧ u8 p 7 < u8 p 6 ∧ u8 p 8 ≤ 4) ∧
      (∀ g : Nat, g < u8 p 8 →
        purpose g ≤ 2 ∧ mode g ≤ 1 ∧ start g ≤ 3999 ∧ 1 ≤ width g ∧ width g ≤ 4000 ∧
        1 ≤ t1 g ∧ t1 g ≤ 199 ∧ 1 ≤ t2 g ∧ t2 g ≤ 199 ∧ (purpose g ≠ 2 → condition g ≤ 3)) ∧
      (∀ g : Nat, g < u8 p 8 →
        (mode g = 0 → start g + width g ≤ 4000) ∧
        (purpose g ≠ 2 → (condition g = 2 ∨ condition g = 3) → t1 g < t2 g) ∧
        (purpose g = 2 → ∀ h : Nat, h < g → purpose h ≠ 2) ∧
        (purpose g = 1 → ∀ h : Nat, h < g → purpose h ≠ 1) ∧
        (mode g = 1 → ∃ h : Nat, h < g ∧ purpose h = 2 ∧ mode h = 0)))) ∧
  (∀ (checks : List (Nat × Bool)) (i : Nat),
    lowestFailing checks = some i ↔ (i, true) ∈ checks ∧ ∀ j : Nat, (j, true) ∈ checks → i ≤ j)

/-- R47, R48, R189: CLEAR_STAGED and READ_SHOT, and the bytes of its gate records, zeros above the gate count. BUSY comes before the side's range (log 23, the model's reading). -/
def Obligations.ClearStagedAndReadShot : Prop :=
  (∀ gates : List Gate, gates.length ≤ 4 →
    let b := fun n : Nat => BitVec.ofNat 8 n
    gateBytes gates = gates.flatMap (fun g =>
      [b g.purpose.code, b g.mode.code, b (g.start / 256), b g.start, b (g.width / 256), b g.width, b g.t1, b g.t2,
        g.conditionCode]) ++ List.replicate (36 - 9 * gates.length) 0#8) ∧
  ∀ (s : State) (f : Frame) (rest : List Frame), mayTake s f rest →
    (f.kind = 0x0D#8 → f.payload.length = 1 →
      let cleared := fun ps : Ps => replied f [0x00#8] ((taken rest s).setPs ps)
      (s.ps.swapPending = true → exec .clearStaged s = .next (replied f [0x05#8] (taken rest s))) ∧
      (s.ps.swapPending = false →
        exec .clearStaged s = .next (
          if u8 f.payload 0 = 0 then cleared { s.ps with staged := ⟨⟨[], 0⟩, s.ps.staged.b⟩ }
          else if u8 f.payload 0 = 1 then cleared { s.ps with staged := ⟨s.ps.staged.a, ⟨[], 0⟩⟩ }
          else if u8 f.payload 0 = 2 then cleared { s.ps with staged := ⟨⟨[], 0⟩, ⟨[], 0⟩⟩ }
          else replied f [0x03#8, 1#8] (taken rest s)))) ∧
    (f.kind = 0x0E#8 → f.payload.length = 3 →
      let slot := u8 f.payload 0
      let side := u8 f.payload 1
      let i := u8 f.payload 2
      let plan := if slot = 0 then s.ps.active else s.ps.staged
      let l := if side = 0 then plan.a else plan.b
      let head := be16 s.ps.generation.toNat ++ [BitVec.ofNat 8 l.shots.length] ++ be16 l.planTime
      exec .readShot s = .next (
        if 1 < slot then replied f [0x03#8, 1#8] (taken rest s)
        else if 1 < side then replied f [0x03#8, 2#8] (taken rest s)
        else if 15 < i then replied f [0x03#8, 3#8] (taken rest s)
        else match l.shots[i]? with
          | none => replied f (0x00#8 :: head ++ List.replicate 46 0#8) (taken rest s)
          | some p => replied f (0x00#8 :: head ++
              [1#8, BitVec.ofNat 8 p.shot.tx.val, BitVec.ofNat 8 p.shot.rx.val, BitVec.ofNat 8 p.shot.gain,
                BitVec.ofNat 8 p.shot.profile.val, BitVec.ofNat 8 p.shot.cadence, BitVec.ofNat 8 p.shot.phase,
                BitVec.ofNat 8 p.shot.gates.length] ++ gateBytes p.shot.gates ++ be16 p.duration)
              (taken rest s)))

/-- R13, R53, R54, R93, R98: SWAP_PLANS, and what a swap does, with the channels that a list supervises. In the link a swap
changes what the MOTION trigger of a change of FAST changes, and nothing else. In IDLE the flag is off (R57); with the flag on there, which does not
arise, the swap is carried out (log 18). -/
def Obligations.SwapPlans : Prop :=
  (∀ (s : State) (f : Frame) (rest : List Frame),
    mayTake s f rest → f.kind = 0x0F#8 → f.payload.length = 0 →
    (s.rc.run = .idle →
      exec .swapPlans s = .next (replied f ([0x00#8, 0#8] ++ be16 (s.ps.generation + 1).toNat)
        (swapPlans (taken rest s)))) ∧
    (s.rc.run ≠ .idle → s.ps.swapPending = true →
      exec .swapPlans s = .next (replied f [0x05#8] (taken rest s))) ∧
    (s.rc.run ≠ .idle → s.ps.swapPending = false →
      exec .swapPlans s = .next (replied f ([0x00#8, 1#8] ++ be16 s.ps.generation.toNat)
        ((taken rest s).setPs { s.ps with swapPending := true })))) ∧
  (∀ s : State,
    (swapPlans s).ps = ⟨s.ps.staged, s.ps.active, s.ps.generation + 1, false⟩ ∧
    (swapPlans s).du = { s.du with
      fast := fastOf s.du.period (max s.ps.staged.a.planTime s.ps.staged.b.planTime) } ∧
    (∀ (x : Side) (ch : Channel),
      ((swapPlans s).cs.get x).supervised = (s.ps.staged.get x).supervised ∧
      ((swapPlans s).cs.get x).ratings[ch] =
        if (s.ps.staged.get x).supervised.getLsbD ch.val then
          if (s.cs.get x).supervised.getLsbD ch.val then (s.cs.get x).ratings[ch] else ⟨.unproven, 0, 0⟩
        else ⟨.unsupervised, 0, 0⟩) ∧
    (swapPlans s).sc = s.sc ∧ (swapPlans s).se = s.se ∧ (swapPlans s).it = s.it ∧ (swapPlans s).gr = s.gr ∧
    (swapPlans s).rc = s.rc ∧
    swapPlans s = { commitDu noLatch
        { s.du with fast := fastOf s.du.period (max s.ps.staged.a.planTime s.ps.staged.b.planTime) } s with
      ps := ⟨s.ps.staged, s.ps.active, s.ps.generation + 1, false⟩
      cs := (swapPlans s).cs }) ∧
  (∀ (l : ShotList) (ch : Channel), l.supervised.getLsbD ch.val = true ↔
    ∃ p ∈ l.shots, p.shot.rx = ch ∧ ∃ g ∈ p.shot.gates, g.purpose = .coupling)

/-! ## Tracking settings and zones -/

/-- R124, R170: SET_TRACKING. -/
def Obligations.SetTracking : Prop :=
  ∀ (s : State) (f : Frame) (rest : List Frame),
    mayTake s f rest → f.kind = 0x05#8 → f.payload.length = 7 →
    (s.rc.run ≠ .idle → exec .setTracking s = .next (replied f [0x04#8] (taken rest s))) ∧
    (s.rc.run = .idle →
      let bridge := u8 f.payload 0
      let minHits := u8 f.payload 1
      let maxLength := u16 f.payload 2
      let window := u8 f.payload 4
      let capA := u8 f.payload 5
      let capB := u8 f.payload 6
      exec .setTracking s = .next (
        if 7 < bridge then replied f [0x03#8, 1#8] (taken rest s)
        else if minHits < 1 ∨ 15 < minHits then replied f [0x03#8, 2#8] (taken rest s)
        else if maxLength < 16 ∨ 4096 < maxLength then replied f [0x03#8, 3#8] (taken rest s)
        else if capA < 8 ∨ 56 < capA then replied f [0x03#8, 5#8] (taken rest s)
        else if capB < 8 ∨ 56 < capB then replied f [0x03#8, 6#8] (taken rest s)
        else replied f [0x00#8] ((taken rest s).setIt
          { s.it with settings := ⟨bridge, minHits, maxLength, window, ⟨capA, capB⟩⟩ })))

/-- R122, R123: SET_ZONE and SET_OFFSET. -/
def Obligations.ZoneRequests : Prop :=
  ∀ (s : State) (f : Frame) (rest : List Frame), mayTake s f rest →
    (f.kind = 0x10#8 → f.payload.length = 15 →
      let start := s32 f.payload 3
      let stop := s32 f.payload 7
      let mask := u16 f.payload 11
      let kind := u8 f.payload 14
      (∀ i : Nat, lowestFailing
          [(1, decide (1 < u8 f.payload 0)), (2, decide (7 < u8 f.payload 1)), (3, decide (1 < u8 f.payload 2)),
            (5, decide (stop < start)), (6, decide (4095 < mask)), (7, decide (1 < u8 f.payload 13)),
            (8, decide (kind < 1 ∨ 15 < kind))] = some i →
        exec .setZone s = .next (replied f [0x03#8, BitVec.ofNat 8 i] (taken rest s))) ∧
      (∀ (x : Side) (n : Fin 8) (enable : Bool), u8 f.payload 0 = sideCode x → u8 f.payload 1 = n.val →
        u8 f.payload 2 = boolCode enable → start ≤ stop → mask ≤ 4095 → u8 f.payload 13 ≤ 1 →
        1 ≤ kind → kind ≤ 15 →
        let z : Zone := ⟨enable, start, stop, BitVec.ofNat 12 mask,
          if u8 f.payload 13 = 0 then .mask else .tag, kind⟩
        exec .setZone s = .next (replied f [0x00#8] ((taken rest s).setIt
          { s.it with zones := s.it.zones.set x ((s.it.zones.get x).set n z) })))) ∧
    (f.kind = 0x11#8 → f.payload.length = 4 →
      exec .setOffset s = .next (replied f [0x00#8] ((taken rest s).setIt
        { s.it with offset := s32 f.payload 0 })))

/-- R118, R119: the zone outcome of a channel at a fire step. -/
def Obligations.ZoneOutcome : Prop :=
  ∀ (zones : Vector Zone 8) (offset z : Int) (c : Channel),
    let covers := fun i : Fin 8 =>
      zones[i].enable = true ∧ zones[i].channels.getLsbD c.val = true ∧
      zones[i].start ≤ z + offset ∧ z + offset ≤ zones[i].stop
    ((∃ i, covers i ∧ zones[i].action = .mask) → zoneOutcome zones offset z c = .masked) ∧
    (∀ i, covers i → (∀ j, covers j → zones[j].action = .tag ∧ i ≤ j) →
      zoneOutcome zones offset z c = .tagged zones[i].kind) ∧
    ((∀ i, ¬covers i) → zoneOutcome zones offset z c = .clear)

/-! ## Run Control -/

/-- R97, R170, R175: START_RUN. The last clause is the RUNSTATE trigger (R58, R165, R180): the report is created with the next
ordinal, or updated in place under its ordinal with the cause sets joined, its swap fields kept unless the trigger brings a
swap; its other fields are Run Control's of this moment. -/
def Obligations.StartRun : Prop :=
  (∀ (s : State) (f : Frame) (rest : List Frame),
    mayTake s f rest → f.kind = 0x12#8 → f.payload.length = 0 →
    (s.rc.run = .running → exec .startRun s = .next (replied f [0x04#8] (taken rest s))) ∧
    (s.rc.run = .stopping → exec .startRun s = .next (replied f [0x05#8] (taken rest s))) ∧
    (s.rc.run = .idle → s.ps.active.a.shots = [] → s.ps.active.b.shots = [] →
      exec .startRun s = .next (replied f [0x07#8] (taken rest s))) ∧
    (s.rc.run = .idle → (s.ps.active.a.shots ≠ [] ∨ s.ps.active.b.shots ≠ []) →
      let cs := fun l : ShotList => Cs.mk
        (Vector.ofFn (fun ch : Fin 12 => if l.supervised.getLsbD ch.val then ⟨.unproven, 0, 0⟩
          else ⟨.unsupervised, 0, 0⟩)) l.supervised
      exec .startRun s = .next (replied f (0x00#8 :: be16 s.ps.generation.toNat ++ beS32 s.du.hwm)
        (placeRunstate ⟨true, false, false, false, false⟩ none
          { taken rest s with
            rc := { s.rc with run := .running, cause := .none }
            cs := ⟨cs s.ps.active.a, cs s.ps.active.b⟩ })))) ∧
  (∀ (s : State) (causes : RunCauses) (swap : Option (Int × SwapPlace)),
    let report := fun (c : RunCauses) (step : Int) (place : SwapPlace) =>
      RunstateReport.mk c s.rc.run s.rc.cause s.du.hwm s.ps.generation step place
    (s.li.runstate = none →
      let created := fun r : RunstateReport => { s with li := { s.li with
        runstate := some ⟨s.li.ordinal, r⟩, ordinal := s.li.ordinal + 1 } }
      (swap = none → placeRunstate causes swap s = created (report causes 0 .none)) ∧
      (∀ (step : Int) (place : SwapPlace), swap = some (step, place) →
        placeRunstate causes swap s = created (report causes step place))) ∧
    (∀ p : Pending RunstateReport, s.li.runstate = some p →
      let joined : RunCauses := ⟨p.report.causes.start || causes.start, p.report.causes.stop || causes.stop,
        p.report.causes.idle || causes.idle, p.report.causes.swap || causes.swap,
        p.report.causes.reset || causes.reset⟩
      let updated := fun r : RunstateReport => { s with li := { s.li with runstate := some ⟨p.ordinal, r⟩ } }
      (swap = none → placeRunstate causes swap s =
        updated (report joined p.report.swapStep p.report.swapPlace)) ∧
      (∀ (step : Int) (place : SwapPlace), swap = some (step, place) →
        placeRunstate causes swap s = updated (report joined step place))))

/-- R176, R177: STOP_RUN. -/
def Obligations.StopRun : Prop :=
  ∀ (s : State) (f : Frame) (rest : List Frame),
    mayTake s f rest → f.kind = 0x13#8 → f.payload.length = 0 →
    (s.rc.run ≠ .running →
      exec .stopRun s = .next (replied f
        [0x00#8, BitVec.ofNat 8 s.rc.run.code, BitVec.ofNat 8 s.rc.cause.code] (taken rest s))) ∧
    (s.rc.run = .running →
      let begun := placeRunstate ⟨false, true, false, false, false⟩ none
        { taken rest s with rc := { s.rc with run := .stopping, cause := .request, drain := .lists } }
      let t := if enginesIdle s then releasePhase begun else begun
      exec .stopRun s = .next (replied f [0x00#8, BitVec.ofNat 8 t.rc.run.code, 1#8] t) ∧
      (enginesIdle s = false → t.rc.run = .stopping) ∧ t.rc.cause = .request)

/-- R181: RESET. -/
def Obligations.ResetRequest : Prop :=
  ∀ (s : State) (f : Frame) (rest : List Frame),
    mayTake s f rest → f.kind = 0x14#8 → f.payload.length = 1 →
    (1 < u8 f.payload 0 → exec .reset s = .next (replied f [0x03#8, 1#8] (taken rest s))) ∧
    (∀ scope : Scope, u8 f.payload 0 = scope.code →
      exec .reset s = .next { taken rest s with
        li := { s.li with held := rest, reply := some ⟨f.kind, f.tag, [0x00#8, BitVec.ofNat 8 scope.code], true⟩ }
        rc := { s.rc with handler := .awaitingReset scope false } })

/-- R170 to R172: an unknown kind, a wrong length, and a run state that does not allow the kind; a refused request
changes nothing else. A request's command with no frame of its kind to take changes nothing (log 2). -/
def Obligations.CommonChecks : Prop :=
  (∀ (s : State) (f : Frame) (rest : List Frame), mayTake s f rest → f.kind = 0#8 ∨ 20 < f.kind.toNat →
    exec .unknownRequestKind s = .next (replied f [0x01#8] (taken rest s))) ∧
  (∀ (c : Instr) (k : Byte) (n : Nat), requestForm c = some (k, n) →
    (∀ (s : State) (f : Frame) (rest : List Frame), mayTake s f rest → f.kind = k → f.payload.length ≠ n →
      exec c s = .next (replied f [0x02#8] (taken rest s))) ∧
    (∀ (s : State) (f : Frame) (rest : List Frame), mayTake s f rest → f.kind ≠ k → exec c s = .next s) ∧
    (∀ s : State, (s.rc.handler ≠ .ready ∨ s.li.reply.isSome ∨ s.li.held = []) → exec c s = .next s))

/-- R34, R125, R141, R185, R186, R189: IDENTIFY and QUERY_STATUS in every run state, with the value codes of Section 12.2
and the bits of a channel mask. -/
def Obligations.IdentificationAndStatus : Prop :=
  (∀ (s : State) (f : Frame) (rest : List Frame), mayTake s f rest → f.payload.length = 0 →
    (f.kind = 0x01#8 → exec .identify s = .next (replied f
      [0x00#8, 0x6C#8, 0x4B#8, 0x46#8, 0x41#8, 0x32#8, 0x34#8, 1#8, 12#8, 16#8, 4#8, 64#8, 8#8, 8#8, 24#8, 8#8,
        8#8, 2#8, 240#8] (taken rest s))) ∧
    (f.kind = 0x02#8 →
      let t := taken rest s
      let b := fun n : Nat => BitVec.ofNat 8 n
      let bit := fun (c : Bool) (n : Nat) => if c then 2 ^ n else 0
      let entries := fun test : TableEntry → Bool =>
        ((List.finRange 64).filter (fun i => test t.it.table[i])).length
      let side := fun x : Side =>
        [b (t.sc.get x).state.code, b (t.sc.get x).level.code] ++ be16 (t.sc.get x).faultMask.toNat ++
        [b (entries (fun e => match e with
            | .opened a _ => a.side = x
            | .free => false
            | .held _ _ => false)),
          b (entries (fun e => match e with
            | .held a _ => a.side = x
            | .free => false
            | .opened _ _ => false)),
          b (entries (fun e => match e with
            | .held a m => a.side = x && m.cluster.isSome
            | .free => false
            | .opened _ _ => false)),
          b (entries (fun e => match e with
            | .held a m => a.side = x && (m.cluster.any (fun c => c.sealedAs.isSome))
            | .free => false
            | .opened _ _ => false))]
      let data := [b t.rc.run.code, b t.rc.cause.code, b t.rc.drain.code, b t.rc.handler.code,
          b t.du.motion.code] ++ beS32 t.du.step ++ beS32 t.du.hwm ++ be24 (t.du.period.getD 0) ++
        be16 t.ps.generation.toNat ++ [b (bit t.ps.swapPending 0 + bit t.du.fast 1 + bit (alert t) 2)] ++
        be16 t.ps.active.a.planTime ++ be16 t.ps.active.b.planTime ++ be16 t.ps.staged.a.planTime ++
        be16 t.ps.staged.b.planTime ++ side .a ++ side .b ++
        [b t.li.flawQueue.length,
          b (bit t.li.motion.isSome 0 + bit t.li.runstate.isSome 1 + bit t.li.side.a.isSome 2 +
            bit t.li.side.b.isSome 3 + bit t.li.coupling.a.isSome 4 + bit t.li.coupling.b.isSome 5 +
            bit t.li.gap.a.isSome 6 + bit t.li.gap.b.isSome 7),
          b (bit t.li.latches.framing 0 + bit t.li.latches.check 1 + bit t.li.latches.timeout 2 +
            bit t.li.latches.overrun 3 + bit t.li.latches.format 4)]
      exec .queryStatus s = .next (replied f (0x00#8 :: data)
        { t with li := { s.li with held := rest, latches := ⟨false, false, false, false, false⟩ } }) ∧
      data.length = 46)) ∧
  (∀ (sc : Sc) (c : Channel),
    sc.faultMask.getLsbD c.val = decide (sc.faults[c] ≠ .none) ∧
    sc.shortMask.getLsbD c.val = decide (sc.faults[c] = .shorted)) ∧
  ([RunState.idle, .running, .stopping].map RunState.code = [0, 1, 2] ∧
    [StopCause.none, .request, .halt, .rangeEnd, .resetRun, .resetFull, .powerOn].map StopCause.code =
      [0, 1, 2, 3, 4, 5, 6] ∧
    [DrainPhase.none, .lists, .release].map DrainPhase.code = [0, 1, 2] ∧
    HandlerState.ready.code = 0 ∧ (∀ (scope : Scope) (sent : Bool), (HandlerState.awaitingReset scope sent).code = 1) ∧
    [MotionState.standstill, .reverse, .returning, .forward].map MotionState.code = [0, 1, 2, 3] ∧
    [SideState.parked, .lowered, .arming, .armed, .fault].map SideState.code = [0, 1, 2, 3, 4] ∧
    [HvLevel.off, .low, .mid, .high].map HvLevel.code = [0, 1, 2, 3] ∧
    [CouplingState.unsupervised, .unproven, .coupled, .doubtful, .lost].map CouplingState.code = [0, 1, 2, 3, 4] ∧
    [SwapPlace.none, .boundary, .idleEntry].map SwapPlace.code = [0, 1, 2] ∧
    [ReleaseMode.due, .forced].map ReleaseMode.code = [0, 1] ∧
    [Side.a, .b].map sideCode = [0, 1] ∧ [false, true].map boolCode = [0, 1] ∧
    [Scope.run, .full].map Scope.code = [0, 1] ∧
    [GatePurpose.detect, .coupling, .reference].map GatePurpose.code = [0, 1, 2] ∧
    [StartMode.absolute, .follow].map StartMode.code = [0, 1] ∧
    [0, 1, 2, 3].map roleOfCode = [some .off, some .pe, some .tx, some .rx])

/-! ## Shot Engine and Coupling Supervisor -/

/-- R41, R60 to R65, R71, R72: a fire boundary at a side's engine, the due shots reached one after another, the end of the
list with its owed steps, and the evaluation of the finished records. A due shot reached while the side is not ARMED does
not arise and is skipped with SIDE_NOT_READY (log 18, the model's reading). -/
def Obligations.EngineAtBoundary : Prop :=
  (∀ (s : State) (x : Side) (z : Int),
    let l := s.ps.active.get x
    (∀ f : Firing, (s.se.get x).firing = some f →
      engineBoundary x z s = s.setSe x { s.se.get x with firing := some { f with owed := f.owed + 1 } }) ∧
    ((s.se.get x).firing = none → (l.dueIndices z = [] ∨ (s.sc.get x).state ≠ .armed) →
      engineBoundary x z s = evaluateFinished x (s.setSe x ⟨none, [⟨z, s.ps.generation,
        (l.dueIndices z).filterMap (fun i => (l.shots[i]?).map (fun p =>
          ⟨i, p.shot.tx, p.shot.rx, .skipped .sideNotReady⟩))⟩]⟩) ∧
      (engineBoundary x z s).se.get x = ⟨none, []⟩) ∧
    (∀ (i : Nat) (rest : List Nat) (p : PlannedShot),
      (s.se.get x).firing = none → (s.sc.get x).state = .armed → l.dueIndices z = i :: rest →
      l.shots[i]? = some p → (s.sc.get x).executable p.shot = true →
      let v := (s.sc.get x).profiles[p.shot.profile]
      engineBoundary x z s = s.setSe x ⟨some
        { step := z
          generation := s.ps.generation
          due := i :: rest
          position := 0
          inFlight := some ⟨i, s.now, p.duration, ⟨p.shot.tx, p.shot.rx, p.shot.gain, v.preTrigger, v.pulse,
            v.recovery, listeningEnd p.shot.gates, (s.sc.get x).supply⟩⟩
          record := []
          owed := 0 }, []⟩) ∧
    ((s.se.get x).firing = none → (s.sc.get x).state = .armed → l.dueIndices z ≠ [] →
      engineBoundary x z s = reachShots x (l.dueIndices z) (s.setSe x ⟨some
        { step := z
          generation := s.ps.generation
          due := l.dueIndices z
          position := 0
          inFlight := none
          record := []
          owed := 0 }, []⟩))) ∧
  (∀ (l : ShotList) (z : Int),
    (l.dueIndices z).Pairwise (· < ·) ∧
    ∀ i : Nat, i ∈ l.dueIndices z ↔
      ∃ p, l.shots[i]? = some p ∧ z % (p.shot.cadence : Int) = (p.shot.phase : Int)) ∧
  (∀ (s : State) (x : Side) (f : Firing), (s.se.get x).firing = some f →
    let l := s.ps.active.get x
    let owed := (List.range f.owed).map (fun k : Nat =>
      StepRecord.mk (f.step + 1 + k) f.generation ((l.dueIndices (f.step + 1 + k)).filterMap (fun i =>
        (l.shots[i]?).map (fun p => ⟨i, p.shot.tx, p.shot.rx, .skipped .overrun⟩))))
    let skip := fun (i : Nat) (p : PlannedShot) (cause : GapCause) => s.setSe x { s.se.get x with firing := some { f with
      inFlight := none
      position := f.position + 1
      record := f.record ++ [⟨i, p.shot.tx, p.shot.rx, .skipped cause⟩] } }
    (reachShots x [] s = evaluateFinished x (s.setSe x
        ⟨some { f with inFlight := none }, ⟨f.step, f.generation, f.record⟩ :: owed⟩) ∧
      (reachShots x [] s).se.get x = ⟨none, []⟩) ∧
    (∀ (i : Nat) (rest : List Nat) (p : PlannedShot), l.shots[i]? = some p →
      ((s.sc.get x).state = .armed → (s.sc.get x).executable p.shot = true →
        let v := (s.sc.get x).profiles[p.shot.profile]
        reachShots x (i :: rest) s = s.setSe x { s.se.get x with firing := some { f with
          inFlight := some ⟨i, s.now, p.duration, ⟨p.shot.tx, p.shot.rx, p.shot.gain, v.preTrigger, v.pulse,
            v.recovery, listeningEnd p.shot.gates, (s.sc.get x).supply⟩⟩ } }) ∧
      ((s.sc.get x).state = .armed → (s.sc.get x).executable p.shot = false →
        reachShots x (i :: rest) s = reachShots x rest (skip i p .channelOff)) ∧
      ((s.sc.get x).state ≠ .armed →
        reachShots x (i :: rest) s = reachShots x rest (skip i p .sideNotReady)))) ∧
  (∀ (s : State) (x : Side),
    ((s.se.get x).finished = [] → evaluateFinished x s = drainTest s) ∧
    ((s.se.get x).finished ≠ [] → evaluateFinished x s = evaluateFinished x (stepEvaluation x s)))

/-- R66 to R71: the completion of the shot in flight. The trace operand is brought to the listening end (log 15, the
model's choice). -/
def Obligations.ShotCompletion : Prop :=
  ∀ (s : State) (x : Side) (trace : List Nat) (f : Firing) (fl : InFlight) (p : PlannedShot), live s →
    (s.se.get x).firing = some f → f.inFlight = some fl → (s.ps.active.get x).shots[fl.shot]? = some p →
    let s0 := s.advanceTo (fl.start + fl.duration * 20)
    let goOn := fun (o : ShotOutcome) (t : State) =>
      reachShots x (f.due.drop (f.position + 1))
        (t.modifyFiring x (fun g => { g with
          inFlight := none
          position := g.position + 1
          record := g.record ++ [⟨fl.shot, p.shot.tx, p.shot.rx, o⟩] }))
    let latched := fun latch : FaultLatch =>
      if (s.sc.get x).faults[p.shot.tx] = .none then
        raiseSide x .channelFault (s0.modifySc x (fun sc =>
          { sc with faults := sc.faults.set p.shot.tx latch }))
      else s0
    exec (.shotCompletion x .openLoad trace) s = .next (goOn (.skipped .channelOff) (latched .openLoad)) ∧
    exec (.shotCompletion x .shorted trace) s = .next (goOn (.skipped .channelOff) (latched .shorted)) ∧
    (let rs := evaluateGates (deliveredTrace trace fl.params.listeningEnd) p.shot.gates
      let s1 : State := match couplingGood rs with
        | none => s0
        | some good => couplingResult x p.shot.rx good s0
      let state : CouplingState := ((s1.cs.get x).ratings[p.shot.rx]).state
      exec (.shotCompletion x .good trace) s = .next (
        if state = .unproven ∨ state = .lost then goOn (.completed true []) s1
        else goOn (.completed false (detectResults rs)) s1))

/-- R94 to R96, R100: the rating after a COUPLING result; and the result is rated with the lose and regain counts of the
receive channel's record in force, the rating is stored for that channel alone, and its event is raised after it. -/
def Obligations.CouplingRating : Prop :=
  (∀ (lose regain : Nat) (c : ChannelCoupling),
    let good := min 15 (c.good + 1)
    let bad := min 15 (c.bad + 1)
    (c.state = .unproven →
      rate lose regain c true = (if regain ≤ good then (⟨.coupled, 0, good⟩, some .couplingRegained)
        else (⟨.unproven, 0, good⟩, none)) ∧
      rate lose regain c false = (⟨.unproven, bad, 0⟩, none)) ∧
    (c.state = .coupled ∨ c.state = .doubtful →
      rate lose regain c true = (⟨.coupled, 0, good⟩, none) ∧
      rate lose regain c false = (if lose ≤ bad then (⟨.lost, bad, 0⟩, some .couplingLost)
        else (⟨.doubtful, bad, 0⟩, none))) ∧
    (c.state = .lost →
      rate lose regain c true = (if regain ≤ good then (⟨.coupled, 0, good⟩, some .couplingRegained)
        else (⟨.lost, 0, good⟩, none)) ∧
      rate lose regain c false = (⟨.lost, bad, 0⟩, none))) ∧
  (∀ (s : State) (x : Side) (ch : Channel) (good : Bool),
    let record := (s.sc.get x).channels[ch]
    let r := rate record.lose record.regain (s.cs.get x).ratings[ch] good
    let rated := { s with
      cs := s.cs.set x { s.cs.get x with ratings := (s.cs.get x).ratings.set ch r.1 } }
    (r.2 = none → couplingResult x ch good s = rated) ∧
    (∀ e : SideEvent, r.2 = some e → couplingResult x ch good s = raiseCoupling x e ch rated))

/-- R78 to R84, R86 to R90: the first crossing, the peak and the conditions. Then: the trace as it is delivered (log 15, the
model's choice, for a trace of another length); a gate's condition by its code; the window of an ABSOLUTE and of a FOLLOW gate
with the result it gives; the results of a shot's gates in their order, with the first crossing of the REFERENCE gate of lower
number (a stored shot has one at most); what is passed on of DETECT and COUPLING results. -/
def Obligations.GateMeasurements : Prop :=
  (∀ (samples : List Nat) (start : Nat), samples ≠ [] →
    let m := measure samples start
    start ≤ m.tof ∧ samples[m.tof - start]? = some m.peak ∧
    (∀ v ∈ samples, v ≤ m.peak) ∧
    (∀ (i v : Nat), i < m.tof - start → samples[i]? = some v → v < m.peak)) ∧
  (∀ (samples : List Nat) (start threshold : Nat),
    (∀ t : Nat, firstCrossing samples start threshold = some t →
      start ≤ t ∧ (∃ v, samples[t - start]? = some v ∧ threshold ≤ v) ∧
      (∀ (i v : Nat), i < t - start → samples[i]? = some v → v < threshold)) ∧
    (firstCrossing samples start threshold = none ↔ ∀ v ∈ samples, v < threshold)) ∧
  (∀ t1 t2 p : Nat,
    (Condition.holds .above t1 t2 p = true ↔ t1 ≤ p) ∧
    (Condition.holds .below t1 t2 p = true ↔ p < t1) ∧
    (Condition.holds .inside t1 t2 p = true ↔ t1 ≤ p ∧ p < t2) ∧
    (Condition.holds .outside t1 t2 p = true ↔ p < t1 ∨ t2 ≤ p)) ∧
  (∀ (trace : List Nat) (n : Nat),
    (deliveredTrace trace n).length = n ∧
    ∀ t : Nat, t < n → (deliveredTrace trace n)[t]? = some (min 200 (trace.getD t 0))) ∧
  (∀ g : Gate,
    (g.conditionCode = 0#8 → g.condition = .above) ∧ (g.conditionCode = 1#8 → g.condition = .below) ∧
    (g.conditionCode = 2#8 → g.condition = .inside) ∧ (g.conditionCode = 3#8 → g.condition = .outside)) ∧
  (∀ (g : Gate) (trace : List Nat) (crossing : Option Nat),
    let judged := fun a b : Nat =>
      let m := measure ((trace.drop a).take (b - a)) a
      if g.condition.holds g.t1 g.t2 m.peak then ResultKind.hit m else .miss m
    (g.mode = .absolute → g.kind trace crossing = judged g.start (g.start + g.width)) ∧
    (g.mode = .follow → crossing = none → g.kind trace crossing = .unevaluated) ∧
    (∀ c : Nat, g.mode = .follow → crossing = some c →
      (4000 ≤ c + g.start → g.kind trace crossing = .unevaluated) ∧
      (c + g.start < 4000 →
        g.kind trace crossing = judged (c + g.start) (min (c + g.start + g.width) 4000)))) ∧
  (∀ (trace : List Nat) (gates : List Gate),
    let results := evaluateGates trace gates
    let found := fun r : Gate => firstCrossing ((trace.drop r.start).take r.width) r.start r.t1
    results.length = gates.length ∧
    ∀ (n : Nat) (g : Gate), gates[n]? = some g →
      let crossing := ((gates.take n).reverse.find? (fun r => decide (r.purpose = .reference))).bind found
      (g.purpose = .reference → results[n]? = some (.reference n (found g))) ∧
      (g.purpose = .detect → results[n]? = some (.detect n (g.kind trace crossing))) ∧
      (g.purpose = .coupling → results[n]? = some (.coupling n (g.kind trace crossing)))) ∧
  (detectResults [] = [] ∧ couplingGood [] = none ∧
    ∀ (n : Nat) (k : ResultKind) (c : Option Nat) (m : Measurement) (rs : List GateResult),
      detectResults (.detect n k :: rs) = ⟨n, k⟩ :: detectResults rs ∧
      detectResults (.coupling n k :: rs) = detectResults rs ∧
      detectResults (.reference n c :: rs) = detectResults rs ∧
      couplingGood (.detect n k :: rs) = couplingGood rs ∧
      couplingGood (.reference n c :: rs) = couplingGood rs ∧
      couplingGood (.coupling n (.hit m) :: rs) = some true ∧
      couplingGood (.coupling n (.miss m) :: rs) = some false ∧
      couplingGood (.coupling n .unevaluated :: rs) = some false)

/-! ## Tracker and Gap Recorder -/

/-- R72, R103, R105 to R115, R120, R144: a step record is applied to the table and then to the Gap Recorder, and the
verdict it used is removed. Then: the gates of the record in their order and the closing tests; what a gate does by its
class; the OPEN indication of a key and the claim; the closing test and the closure. -/
def Obligations.StepEvaluation : Prop :=
  (∀ (s : State) (x : Side) (r : StepRecord) (rest : List StepRecord) (v : Verdict) (vs : List Verdict),
    live s → (s.se.get x).finished = r :: rest → s.it.verdicts.get x = v :: vs →
    let k := s.track.evaluate s.du.hwm ⟨x, r.step, s.ps.generation, v⟩ (s.ps.active.get x) r.entries
    let causes := fun c : GapCause => if c = .tableFull then k.2
      else r.entries.foldl (fun m e => if e.outcome.cause? = some c then m ||| e.channels else m) 0#12
    let g := Recorder.evaluate x r.step causes ⟨s.gr.get x, k.1.li⟩
    let engine : Se := if rest = [] then ⟨none, []⟩ else ⟨(s.se.get x).firing, rest⟩
    stepEvaluation x s =
      { s with
        it := { k.1.it with verdicts := k.1.it.verdicts.set x (k.1.it.verdicts.get x).tail }
        li := g.li
        gr := s.gr.set x g.gr
        se := s.se.set x engine } ∧
    exec (.stepEvaluation x) s = .next (drainTest (stepEvaluation x s)) ∧
    k.1.it.verdicts.get x = v :: vs) ∧
  (∀ (hwm : Int) (c : EvalContext) (l : ShotList) (entries : List OutcomeEntry) (k : Track),
    let gates := fun e : OutcomeEntry => match l.shots[e.shot]? with
      | none => ([] : List Nat)
      | some p => (p.shot.gates.zipIdx.filter (fun q : Gate × Nat => q.1.purpose = GatePurpose.detect)).map Prod.snd
    let apply := fun (p : It × Mask) (q : OutcomeEntry × Nat) =>
      let r := p.1.applyGate c q.1 q.2
      (r.1, if r.2 then p.2 ||| ((1#12 <<< q.1.tx.val) ||| (1#12 <<< q.1.rx.val)) else p.2)
    let p := (entries.flatMap (fun e => (gates e).map (fun g => (e, g)))).foldl apply (k.it, 0#12)
    k.evaluate hwm c l entries =
      ((List.finRange 64).foldl (fun k i => k.closeTest hwm c.side c.step i) ⟨p.1, k.li⟩, p.2)) ∧
  (∀ (t : It) (c : EvalContext) (e : OutcomeEntry) (g : Nat),
    let z := c.verdict.outcomes[e.rx]
    let found := t.findOpen c.side e.shot g
    let opened := fun (i : Fin 64) (a : Indication) (run : Nat) =>
      { t with table := t.table.set i (.opened a run) }
    let kind : Option Nat := match z with
      | .tagged n => some n
      | .clear => none
      | .masked => none
    (z = .masked → t.applyGate c e g = (t, false)) ∧
    (z ≠ .masked → ((∃ cause, e.outcome = .skipped cause) ∨ ∃ rs, e.outcome = .completed true rs) →
      (found = none → t.applyGate c e g = (t, false)) ∧
      ∀ (i : Fin 64) (a : Indication) (run : Nat), found = some (i, a, run) →
        t.applyGate c e g = (opened i { a with flags := { a.flags with interrupted := true } } (run + 1), false)) ∧
    (∀ rs : List DetectResult, z ≠ .masked → e.outcome = .completed false rs →
      let result := (rs.find? (fun r => r.gate = g)).map (fun r => r.kind)
      ((∀ m, result ≠ some (.hit m)) →
        (found = none → t.applyGate c e g = (t, false)) ∧
        ∀ (i : Fin 64) (a : Indication) (run : Nat), found = some (i, a, run) →
          t.applyGate c e g = (opened i a (run + 1), false)) ∧
      (∀ m : Measurement, result = some (.hit m) →
        (∀ (i : Fin 64) (a : Indication) (run : Nat), found = some (i, a, run) →
          t.applyGate c e g = (opened i
            { a with
              last := c.step
              hits := a.hits + 1
              peak := if a.peak < m.peak then m.peak else a.peak
              peakStep := if a.peak < m.peak then c.step else a.peakStep
              peakTof := if a.peak < m.peak then m.tof else a.peakTof
              tofMin := min a.tofMin m.tof
              tofMax := max a.tofMax m.tof
              zoneKind := if a.zoneKind.isSome then a.zoneKind else kind
              flags := { a.flags with saturated := a.flags.saturated || decide (m.peak = 200) } } 0, false)) ∧
        (found = none →
          (∀ i : Fin 64, t.claim c.side = some i →
            t.applyGate c e g = (opened i
              { side := c.side
                shot := e.shot
                gate := g
                tx := e.tx
                rx := e.rx
                generation := c.generation
                first := c.step
                last := c.step
                hits := 1
                peak := m.peak
                peakStep := c.step
                peakTof := m.tof
                tofMin := m.tof
                tofMax := m.tof
                zoneKind := kind
                flags := ⟨false, decide (m.peak = 200), false, false, false⟩ } 0, false)) ∧
          (t.claim c.side = none → t.applyGate c e g = (t, true)))))) ∧
  (∀ (t : It) (x : Side) (shot gate : Nat),
    let ofKey := fun a : Indication => a.side = x ∧ a.shot = shot ∧ a.gate = gate
    let used := ((List.finRange 64).filter (fun i => match t.table[i] with
      | .free => false
      | .opened a _ => a.side = x
      | .held a _ => a.side = x)).length
    (∀ (i : Fin 64) (a : Indication) (run : Nat), t.findOpen x shot gate = some (i, a, run) →
      t.table[i] = .opened a run ∧ ofKey a) ∧
    (t.findOpen x shot gate = none ↔
      ∀ (i : Fin 64) (a : Indication) (run : Nat), t.table[i] = .opened a run → ¬ofKey a) ∧
    (∀ i : Fin 64, t.claim x = some i ↔
      used < t.settings.cap.get x ∧ t.table[i] = .free ∧ ∀ j : Fin 64, j < i → t.table[j] ≠ .free) ∧
    (t.claim x = none ↔ t.settings.cap.get x ≤ used ∨ ∀ i : Fin 64, t.table[i] ≠ .free)) ∧
  (∀ (hwm z : Int) (x : Side) (k : Track) (i : Fin 64),
    (∀ (a : Indication) (run : Nat), k.it.table[i] = .opened a run → a.side = x →
      (k.it.settings.bridge < run → k.closeTest hwm x z i = k.close hwm i a) ∧
      (run ≤ k.it.settings.bridge → (k.it.settings.maxLength : Int) ≤ z - a.first + 1 →
        k.closeTest hwm x z i = k.close hwm i { a with flags := { a.flags with long := true } }) ∧
      (run ≤ k.it.settings.bridge → z - a.first + 1 < (k.it.settings.maxLength : Int) →
        k.closeTest hwm x z i = k)) ∧
    ((∀ (a : Indication) (run : Nat), k.it.table[i] = .opened a run → a.side ≠ x) →
      k.closeTest hwm x z i = k) ∧
    (∀ a : Indication,
      (a.hits < k.it.settings.minHits →
        k.close hwm i a = ⟨{ k.it with table := k.it.table.set i .free }, k.li⟩) ∧
      (k.it.settings.minHits ≤ a.hits → k.close hwm i a = k.form hwm i a)))

/-- R143, R145, R146, R148, R149, R151: the open gaps after a step evaluation, the closed gaps it places in the GAP slot in
ascending cause number, what placing one does, and the closing of all at the end of the drain. Which recorder is first there
is a free value (log 7). -/
def Obligations.GapsAfterEvaluation : Prop :=
  let bit : GapCause → BitVec 5 := fun c => match c with
    | .overrun => 1
    | .sideNotReady => 2
    | .channelOff => 4
    | .coupling => 8
    | .tableFull => 16
  let ascending : List GapCause := [.overrun, .sideNotReady, .channelOff, .coupling, .tableFull]
  (∀ (r : Recorder) (x : Side) (z : Int) (causes : GapCause → Mask),
    (∀ c : GapCause,
      (causes c = 0 → (r.evaluate x z causes).gr.gaps.get c = none) ∧
      (causes c ≠ 0 → r.gr.gaps.get c = none →
        (r.evaluate x z causes).gr.gaps.get c = some ⟨z, z, causes c⟩) ∧
      (∀ g : Gap, causes c ≠ 0 → r.gr.gaps.get c = some g →
        (r.evaluate x z causes).gr.gaps.get c = some ⟨g.first, z, g.channels ||| causes c⟩)) ∧
    (r.evaluate x z causes).li = (ascending.filterMap (fun c =>
      if causes c = 0 then
        (r.gr.gaps.get c).map (fun g => GapRange.mk g.first g.last (bit c) g.channels 1 false)
      else none)).foldl (fun l g => l.placeGap x g) r.li) ∧
  (∀ (l : Li) (x : Side) (g : GapRange),
    (l.gap.get x = none → l.placeGap x g =
      { l with gap := l.gap.set x (some ⟨l.ordinal, ⟨[g]⟩⟩), ordinal := l.ordinal + 1 }) ∧
    (∀ p : Pending GapReport, l.gap.get x = some p → p.report.ranges.length < 8 →
      l.placeGap x g = { l with gap := l.gap.set x (some ⟨p.ordinal, ⟨p.report.ranges ++ [g]⟩⟩) }) ∧
    (∀ (p : Pending GapReport) (before : List GapRange) (r : GapRange), l.gap.get x = some p →
      p.report.ranges = before ++ [r] → 8 ≤ p.report.ranges.length →
      l.placeGap x g = { l with gap := l.gap.set x (some ⟨p.ordinal, ⟨before ++
        [⟨min r.first g.first, max r.last g.last, r.causes ||| g.causes, r.channels ||| g.channels,
          min 255 (r.count + g.count), r.drain || g.drain⟩]⟩⟩) })) ∧
  (∀ (s : State) (x : Side),
    (∀ c : GapCause, ((drainGaps x s).gr.get x).gaps.get c = none) ∧
    drainGaps x s = { s with
      gr := s.gr.set x ((drainGaps x s).gr.get x)
      li := (ascending.filterMap (fun c => ((s.gr.get x).gaps.get c).map (fun g =>
        GapRange.mk g.first g.last (bit c) g.channels 1 true))).foldl (fun l g => l.placeGap x g) s.li } ∧
    ∃ (y : Side) (n : Nat), drainBothGaps s =
        { drainGaps (otherSide y) (drainGaps y s) with free := n })

/-- R31, R55, R58, R99, R116: a pending swap at the boundary under way, and a pending channel record at its moment; the last
two clauses say how all OPEN indications are closed, and that all pending records of both sides take effect together. That these two are commands of their own as well as parts of the fire
boundary is the model's form (log 5). -/
def Obligations.SwapAndRecordAtBoundary : Prop :=
  (∀ (s : State) (z : Int), live s → s.boundary = some z → s.ps.swapPending = true → enginesIdle s = true →
    let s1 := swapPlans s
    let s2 := s1.setTrack (s1.track.closeAll s1.du.hwm (fun f => { f with planChange := true }))
    exec .planSwapAtBoundary s =
      .next (placeRunstate ⟨false, false, false, true, false⟩ (some (z, .boundary)) s2)) ∧
  (∀ s : State, (s.boundary = none ∨ s.ps.swapPending = false ∨ enginesIdle s = false) →
    exec .planSwapAtBoundary s = .next s) ∧
  (∀ s : State, live s → exec .planSwapAtBoundary s = .next (planSwapAtBoundary s)) ∧
  (∀ (s : State) (x : Side) (ch : Channel) (r : ChannelRecord), live s →
    (s.rc.run = .idle ∨ s.boundary.isSome) → (s.sc.get x).pendingRecords[ch] = some r →
    exec (.channelRecordTakesEffect x ch) s = .next ((s.modifySc x (fun sc =>
      { sc with channels := sc.channels.set ch r, pendingRecords := sc.pendingRecords.set ch none })).setCs x
        { s.cs.get x with
          ratings := (s.cs.get x).ratings.set ch
            (if (s.cs.get x).supervised.getLsbD ch.val then ⟨.unproven, 0, 0⟩ else ⟨.unsupervised, 0, 0⟩) })) ∧
  (∀ (s : State) (x : Side) (ch : Channel),
    ((s.rc.run ≠ .idle ∧ s.boundary = none) ∨ (s.sc.get x).pendingRecords[ch] = none) →
    exec (.channelRecordTakesEffect x ch) s = .next s) ∧
  (∀ (hwm : Int) (mark : IndicationFlags → IndicationFlags) (k : Track),
    k.closeAll hwm mark = (List.finRange 64).foldl (fun k i => match k.it.table[i] with
      | .opened a _ => k.close hwm i { a with flags := mark a.flags }
      | .free => k
      | .held _ _ => k) k) ∧
  (∀ s : State,
    let t := recordsTakeEffect s
    t = { s with sc := t.sc, cs := t.cs } ∧
    ∀ x : Side,
      t.sc.get x = { s.sc.get x with
        channels := (t.sc.get x).channels, pendingRecords := (t.sc.get x).pendingRecords } ∧
      (t.cs.get x).supervised = (s.cs.get x).supervised ∧
      ∀ ch : Channel, (t.sc.get x).pendingRecords[ch] = none ∧
        (∀ r : ChannelRecord, (s.sc.get x).pendingRecords[ch] = some r →
          (t.sc.get x).channels[ch] = r ∧
          (t.cs.get x).ratings[ch] =
            if (s.cs.get x).supervised.getLsbD ch.val then ⟨.unproven, 0, 0⟩ else ⟨.unsupervised, 0, 0⟩) ∧
        ((s.sc.get x).pendingRecords[ch] = none →
          (t.sc.get x).channels[ch] = (s.sc.get x).channels[ch] ∧
          (t.cs.get x).ratings[ch] = (s.cs.get x).ratings[ch]))

/-- R128 to R135, R138 to R140: the front cluster of the release line leaves when the flaw queue has a free place. Then: the
front of the line; the FLAW report of a cluster; all that leave at one moment; the candidates of a joiner and where it goes;
the cluster it starts, joins, or joins after a merge; sealing; and the members of a head. In STOPPING, where it may end the
drain, the command is `DrainSteps`' own. -/
def Obligations.ClusterRelease : Prop :=
  (∀ (s : State) (h : Fin 64) (i : Indication) (c : Cluster), live s → s.rc.run ≠ .stopping →
    s.it.front = some (h, i, c) → s.li.flawQueue.length < 24 →
    ∃ t, exec .clusterRelease s = .next t ∧
      t = { s with it := t.it, li := t.li } ∧
      t.li = { s.li with
        flawQueue := s.li.flawQueue ++ [⟨s.li.ordinal, s.it.flawReport s.du.hwm h i c⟩]
        ordinal := s.li.ordinal + 1 } ∧
      t.it = { s.it with table := t.it.table } ∧
      (∀ j : Fin 64, t.it.table[j] =
        if j = h ∨ (s.it.table[j]).memberOf h = true then .free else s.it.table[j])) ∧
  (∀ s : State, s.rc.run ≠ .stopping → (s.it.front = none ∨ 24 ≤ s.li.flawQueue.length) →
    exec .clusterRelease s = .next s) ∧
  (∀ t : It,
    (t.front = none ↔ ∀ (h g : Fin 64) (i : Indication) (o : Nat) (c : Cluster),
      t.table[h] = .held i ⟨g, o, some c⟩ → c.sealedAs = none) ∧
    (∀ (h : Fin 64) (i : Indication) (c : Cluster), t.front = some (h, i, c) →
      (∃ (g : Fin 64) (o : Nat), t.table[h] = .held i ⟨g, o, some c⟩) ∧ c.sealedAs ≠ none ∧
      ∀ (h' g : Fin 64) (i' : Indication) (o : Nat) (c' : Cluster), t.table[h'] = .held i' ⟨g, o, some c'⟩ →
        c'.sealedAs ≠ none → c.release < c'.release ∨ (c.release = c'.release ∧ h ≤ h'))) ∧
  (∀ (t : It) (hwm : Int) (h : Fin 64) (i : Indication) (o : Nat) (c : Cluster), clusterLaw t →
    t.table[h] = .held i ⟨h, o, some c⟩ →
    let r := t.flawReport hwm h i c
    r.side = i.side ∧ r.generation = i.generation ∧ r.release = c.release ∧ r.mode = c.sealedAs.getD .due ∧
    r.hwm = hwm ∧ r.members.length = c.count ∧
    (∀ (e : Fin 64) (a : Indication) (m : Membership), t.table[e] = .held a m → m.head = h →
      r.members[m.order - 1]? = some a) ∧
    (∃ a ∈ r.members, a.first = r.first) ∧ (∀ a ∈ r.members, r.first ≤ a.first) ∧
    (∃ a ∈ r.members, a.last = r.last) ∧ (∀ a ∈ r.members, a.last ≤ r.last) ∧
    (1 ≤ r.strongest ∧ ∃ a, r.members[r.strongest - 1]? = some a ∧
      ∀ (n : Nat) (b : Indication), r.members[n]? = some b →
        b.peak ≤ a.peak ∧ (n + 1 < r.strongest → b.peak < a.peak))) ∧
  (∀ (hwm : Int) (k : Track),
    (k.it.front = none ∨ 24 ≤ k.li.flawQueue.length → k.releaseAll hwm = k) ∧
    (∀ (h : Fin 64) (i : Indication) (c : Cluster), k.it.front = some (h, i, c) → k.li.flawQueue.length < 24 →
      k.releaseAll hwm = Track.releaseAll hwm
        ⟨{ k.it with table := Vector.ofFn (fun j =>
            if j = h ∨ (k.it.table[j]).memberOf h = true then .free else k.it.table[j]) },
          { k.li with
            flawQueue := k.li.flawQueue ++ [⟨k.li.ordinal, k.it.flawReport hwm h i c⟩]
            ordinal := k.li.ordinal + 1 }⟩)) ∧
  (∀ (t : It) (j : Indication),
    (t.candidates j).Pairwise (fun p q => p.1 < q.1) ∧
    ∀ (h : Fin 64) (c : Cluster), (h, c) ∈ t.candidates j ↔
      ∃ (g : Fin 64) (i : Indication) (o : Nat), t.table[h] = .held i ⟨g, o, some c⟩ ∧
        i.side = j.side ∧ i.generation = j.generation ∧ c.sealedAs = none ∧
        ∃ (e : Fin 64) (a : Indication) (m : Membership), t.table[e] = .held a m ∧ m.head = h ∧
          a.first - t.settings.window ≤ j.last ∧ j.first ≤ a.last + t.settings.window) ∧
  (∀ (hwm : Int) (j : Fin 64) (i : Indication) (k : Track),
    let cs := k.it.candidates i
    let total := (cs.map (fun q => q.2.count)).sum
    (cs = [] → k.form hwm j i = k.startCluster hwm j i) ∧
    (∀ (h : Fin 64) (c : Cluster), cs = [(h, c)] →
      (c.count ≤ 7 → k.form hwm j i = { k with it := k.it.join j i h c }) ∧
      (8 ≤ c.count → k.form hwm j i = k.startCluster hwm j i)) ∧
    (∀ (h : Fin 64) (c : Cluster) (rest : List (Fin 64 × Cluster)), cs = (h, c) :: rest → rest ≠ [] →
      (total + 1 ≤ 8 → k.form hwm j i = { k with it := k.it.merge j i h cs }) ∧
      (8 < total + 1 → (∀ q ∈ cs, 8 ≤ q.2.count) → k.form hwm j i = k.startCluster hwm j i) ∧
      (∀ (before after : List (Fin 64 × Cluster)) (h' : Fin 64) (c' : Cluster), 8 < total + 1 →
        cs = before ++ (h', c') :: after → (∀ q ∈ before, 8 ≤ q.2.count) → c'.count ≤ 7 →
        k.form hwm j i = { k with it := k.it.join j i h' c' }))) ∧
  (∀ (hwm : Int) (j : Fin 64) (i : Indication) (k : Track),
    let release := i.last + k.it.settings.window
    let started := fun mode : Option ReleaseMode => Track.mk
      { k.it with table := k.it.table.set j (.held i ⟨j, 1, some ⟨release, 1, mode⟩⟩) } k.li
    (hwm ≤ release → k.startCluster hwm j i = started none) ∧
    (release < hwm → k.startCluster hwm j i = Track.releaseAll hwm (started (some .due)))) ∧
  (∀ (t : It) (j h : Fin 64) (i a : Indication) (g : Fin 64) (o : Nat) (c c' : Cluster), j ≠ h →
    t.table[h] = .held a ⟨g, o, some c'⟩ →
    let joined := (t.table.set j (.held i ⟨h, c.count + 1, none⟩)).set h
      (.held a ⟨g, o, some ⟨max c.release (i.last + t.settings.window), c.count + 1, none⟩⟩)
    t.join j i h c = { t with table := joined }) ∧
  (∀ (t : It) (j h : Fin 64) (i a : Indication) (o : Nat) (c c' : Cluster) (rest : List (Fin 64 × Cluster)),
    let cs := (h, c) :: rest
    let sum := fun qs : List (Fin 64 × Cluster) => (qs.map (fun q => q.2.count)).sum
    let release := (cs.map (fun q => q.2.release)).foldl max (i.last + t.settings.window)
    cs.Pairwise (fun p q => p.1 < q.1) → t.table[h] = .held a ⟨h, o, some c'⟩ →
    (∀ (b : Indication) (m : Membership), t.table[j] ≠ .held b m) →
    t.merge j i h cs = { t with table := (t.merge j i h cs).table } ∧
    (t.merge j i h cs).table[j] = .held i ⟨h, sum cs + 1, none⟩ ∧
    (∀ (e : Fin 64) (b : Indication) (m : Membership) (before after : List (Fin 64 × Cluster)) (d : Cluster),
      t.table[e] = .held b m → cs = before ++ (m.head, d) :: after →
      (t.merge j i h cs).table[e] = .held b ⟨h, sum before + m.order,
        if e = h then some ⟨release, sum cs + 1, none⟩ else none⟩) ∧
    (∀ e : Fin 64, e ≠ j → (∀ (b : Indication) (m : Membership), t.table[e] = .held b m →
        ∀ q ∈ cs, m.head ≠ q.1) → (t.merge j i h cs).table[e] = t.table[e])) ∧
  (∀ (t : It) (hwm : Int),
    t.sealDue hwm = { t with table := (t.sealDue hwm).table } ∧
    t.sealForced = { t with table := t.sealForced.table } ∧
    (∀ (e g : Fin 64) (i : Indication) (o : Nat) (r : Int) (n : Nat),
      t.table[e] = .held i ⟨g, o, some ⟨r, n, none⟩⟩ →
      (t.sealDue hwm).table[e] =
        .held i ⟨g, o, some ⟨r, n, if r < hwm then some .due else none⟩⟩ ∧
      t.sealForced.table[e] = .held i ⟨g, o, some ⟨r, n, some .forced⟩⟩) ∧
    (∀ e : Fin 64,
      (∀ (g : Fin 64) (i : Indication) (o : Nat) (r : Int) (n : Nat),
        t.table[e] ≠ .held i ⟨g, o, some ⟨r, n, none⟩⟩) →
      (t.sealDue hwm).table[e] = t.table[e] ∧ t.sealForced.table[e] = t.table[e])) ∧
  (∀ (e : TableEntry) (h : Fin 64), e.memberOf h = true ↔
    ∃ (a : Indication) (m : Membership), e = .held a m ∧ m.head = h)

/-- R57, R117, R135, R138, R151, R176, R178, R179: the drain passes to RELEASE when both engines are IDLE, and ends when the
release is complete, which CLUSTER_RELEASE may bring about. The end of the drain is given in its order, with what it
changes and what stays. Then: the tests of the drain, and the beginning of a stop. -/
def Obligations.DrainSteps : Prop :=
  (∀ s : State, live s → s.rc.run = .stopping → s.rc.drain = .lists → enginesIdle s = true →
    let s1 := s.setRc { s.rc with drain := .release }
    let s2 := s1.setTrack (s1.track.closeAll s.du.hwm (fun f => { f with truncated := true }))
    exec .drainReleasePhase s = .next (releasePhase s) ∧
    releasePhase s = drainEndTest (releaseClusters (s2.setIt s2.it.sealForced))) ∧
  (∀ s : State, live s → s.rc.run = .stopping → s.rc.drain = .release → enginesIdle s = true →
    s.it.empty = true →
    let swap := s.ps.swapPending
    let s1 := { drainBothGaps s with rc := { s.rc with run := .idle, drain := .none } }
    let s2 := recordsTakeEffect (if swap then swapPlans s1 else s1)
    let t := placeRunstate ⟨false, false, true, swap, false⟩
      (if swap then some (s.du.hwm, SwapPlace.idleEntry) else none) s2
    exec .drainEnd s = .next t ∧
    t.rc = { s.rc with run := .idle, drain := .none } ∧
    (t.gr.get .a).noneOpen = true ∧ (t.gr.get .b).noneOpen = true ∧
    t.ps = (if swap then ⟨s.ps.staged, s.ps.active, s.ps.generation + 1, false⟩ else s.ps) ∧
    (∀ (x : Side) (ch : Channel), (t.sc.get x).pendingRecords[ch] = none) ∧
    (∃ p, t.li.runstate = some p ∧ p.report.causes.idle = true ∧ p.report.run = .idle ∧
      p.report.cause = s.rc.cause ∧ p.report.generation = t.ps.generation ∧
      (swap = true → p.report.causes.swap = true ∧ p.report.swapStep = s.du.hwm ∧
        p.report.swapPlace = .idleEntry)) ∧
    t.du = { s.du with fast := t.du.fast } ∧
    (∀ x : Side, t.sc.get x = { s.sc.get x with
      channels := (t.sc.get x).channels, pendingRecords := (t.sc.get x).pendingRecords }) ∧
    t.se = s.se ∧ t.it = s.it ∧
    t.li = { s.li with
      motion := t.li.motion, runstate := t.li.runstate, gap := t.li.gap, ordinal := t.li.ordinal } ∧
    (swap = false → t.du = s.du ∧ t.li.motion = s.li.motion) ∧
    t.pending = s.pending ∧ t.now = s.now ∧ t.pinReset = s.pinReset ∧ t.boundary = s.boundary) ∧
  (∀ s : State, (s.rc.run ≠ .stopping ∨ s.rc.drain ≠ .lists ∨ enginesIdle s = false) →
    exec .drainReleasePhase s = .next s) ∧
  (∀ s : State, (s.rc.run ≠ .stopping ∨ s.rc.drain ≠ .release ∨ enginesIdle s = false ∨ s.it.empty = false) →
    exec .drainEnd s = .next s) ∧
  (∀ s : State, live s → s.rc.run = .stopping →
    (∀ (h : Fin 64) (i : Indication) (c : Cluster), s.it.front = some (h, i, c) → s.li.flawQueue.length < 24 →
      let t := { s with
        it := { s.it with table := Vector.ofFn (fun j =>
          if j = h ∨ (s.it.table[j]).memberOf h = true then TableEntry.free else s.it.table[j]) }
        li := { s.li with
          flawQueue := s.li.flawQueue ++ [⟨s.li.ordinal, s.it.flawReport s.du.hwm h i c⟩]
          ordinal := s.li.ordinal + 1 } }
      ∃ u : State, exec .clusterRelease s = .next u ∧ exec .drainEnd t = .next u) ∧
    ((s.it.front = none ∨ 24 ≤ s.li.flawQueue.length) →
      ∃ u : State, exec .clusterRelease s = .next u ∧ exec .drainEnd s = .next u)) ∧
  (∀ s : State,
    (live s → exec .drainReleasePhase s = .next (drainTest s) ∧ exec .drainEnd s = .next (drainEndTest s)) ∧
    releaseClusters s = s.setTrack (s.track.releaseAll s.du.hwm) ∧
    (enginesIdle s = true ↔ ∀ x : Side, (s.se.get x).firing = none ∧ (s.se.get x).finished = []) ∧
    (s.it.empty = true ↔ ∀ i : Fin 64, s.it.table[i] = .free) ∧
    (∀ x : Side, (s.gr.get x).noneOpen = true ↔ ∀ c : GapCause, (s.gr.get x).gaps.get c = none)) ∧
  (∀ (s : State) (cause : StopCause),
    (s.rc.run = .running → beginStop cause s = drainTest (placeRunstate ⟨false, true, false, false, false⟩ none
      { s with rc := { s.rc with run := .stopping, cause := cause, drain := .lists } })) ∧
    (s.rc.run ≠ .running → beginStop cause s = s))

/-! ## Message Link -/

/-- R158: a character in HUNTING. -/
def Obligations.CharacterInHunting : Prop :=
  ∀ (s : State) (after : Nat) (c : Character), live s → s.li.receiver.assembling = false →
    let with' := fun l : Li => Host.Outcome.next (φ := Fault) (ρ := Refusal) ((s.advance after).setLi l)
    (c.stop = false → exec (.characterReceived after c) s =
      with' { s.li with latches := { s.li.latches with framing := true } }) ∧
    (c.stop = true → c.mark = true → c.data = 0xA1#8 → exec (.characterReceived after c) s =
      with' { s.li with receiver := ⟨true, [0xA1#8], false, some (s.now + after + 4 * s.li.rate.charTime)⟩ }) ∧
    (c.stop = true → c.mark = true → c.data ≠ 0xA1#8 → exec (.characterReceived after c) s =
      with' { s.li with
        receiver := { s.li.receiver with unmarkedRun := false }
        latches := { s.li.latches with format := true } }) ∧
    (c.stop = true → c.mark = false → s.li.receiver.unmarkedRun = false →
      exec (.characterReceived after c) s = with' { s.li with
        receiver := { s.li.receiver with unmarkedRun := true }
        latches := { s.li.latches with format := true } }) ∧
    (c.stop = true → c.mark = false → s.li.receiver.unmarkedRun = true →
      exec (.characterReceived after c) s = with' s.li)

/-- R159, R161, R162: a character in ASSEMBLING. -/
def Obligations.CharacterInAssembling : Prop :=
  ∀ (s : State) (after : Nat) (c : Character), live s → s.li.receiver.assembling = true →
    let with' := fun l : Li => Host.Outcome.next (φ := Fault) (ρ := Refusal) ((s.advance after).setLi l)
    let hunting : Receiver := ⟨false, [], false, none⟩
    let timer := some (s.now + after + 4 * s.li.rate.charTime)
    let buffer := s.li.receiver.buffer ++ [c.data]
    let n := (buffer.getD 1 0#8).toNat
    let received := buffer.drop (n + 4)
    let computed := be16 (frameCheck ((buffer.drop 1).take (n + 3))).toNat
    let frame : Frame := ⟨buffer.getD 2 0#8, buffer.getD 3 0#8, (buffer.drop 4).take n⟩
    (c.stop = false → exec (.characterReceived after c) s =
      with' { s.li with receiver := hunting, latches := { s.li.latches with framing := true } }) ∧
    (c.stop = true → c.mark = true → c.data = 0xA1#8 → exec (.characterReceived after c) s =
      with' { s.li with
        receiver := ⟨true, [0xA1#8], false, timer⟩
        latches := { s.li.latches with format := true } }) ∧
    (c.stop = true → c.mark = true → c.data ≠ 0xA1#8 → exec (.characterReceived after c) s =
      with' { s.li with receiver := hunting, latches := { s.li.latches with format := true } }) ∧
    (c.stop = true → c.mark = false →
      exec (.characterReceived after c) s = with' (
        if buffer.length = 2 ∧ 240 < n then
          { s.li with receiver := hunting, latches := { s.li.latches with format := true } }
        else if buffer.length ≠ n + 6 then { s.li with receiver := ⟨true, buffer, false, timer⟩ }
        else if computed ≠ received then
          { s.li with receiver := hunting, latches := { s.li.latches with check := true } }
        else if s.li.held.length < 2 then { s.li with receiver := hunting, held := s.li.held ++ [frame] }
        else { s.li with receiver := hunting, latches := { s.li.latches with overrun := true } }))

/-- R154, R155, R160, R166: the idle timer runs out; HOLD_IN is asserted and released. The release makes the transmitter's choice in its
own action (log 3, the model's choice), which `TransmissionStart` describes. -/
def Obligations.IdleTimerAndHoldIn : Prop :=
  (∀ (s : State) (t : Nat), live s → s.li.receiver.idle = some t →
    exec .idleTimerExpiry s = .next ((s.advanceTo t).setLi { s.li with
      receiver := ⟨false, [], false, none⟩, latches := { s.li.latches with timeout := true } })) ∧
  (∀ s : State, s.li.receiver.idle = none → exec .idleTimerExpiry s = .next s) ∧
  (∀ (s : State) (after : Nat), live s →
    let released := (s.advance after).setLi { s.li with holdIn := false }
    exec (.holdInAssert after) s = .next ((s.advance after).setLi { s.li with holdIn := true }) ∧
    exec (.holdInRelease after) s = .next (transmissionStart released) ∧
    exec .transmissionStart released = .next (transmissionStart released) ∧
    (s.li.tx ≠ none → transmissionStart released = released) ∧
    (s.li.reply = none → s.li.candidates = [] → transmissionStart released = released)) ∧
  (∀ s : State, s.li.holdIn = true → exec .transmissionStart s = .next s) ∧
  [LinkRate.half, .one, .two, .four].map LinkRate.charTime = [440, 220, 110, 55]

/-- R14, R37, R101, R136, R154, R156, R157, R166 to R168, R173, R190: the free transmitter begins the reply, or the report of the
choice, which leaves its place; its owner then does what its chapter states. Then the six report payloads, the outer
form of a frame, and the frame check: its generator, its start value, and how one byte enters it. Beginning a frame is a command of its own (log 3, the model's choice), and the values of SIDE and COUPLING
reports are their blocks' current ones (log 17, the model's form). -/
def Obligations.TransmissionStart : Prop :=
  (∀ s : State, live s → s.li.tx = none → s.li.holdIn = false →
    let characters := fun bytes : List Byte =>
      bytes.zipIdx.map (fun q => Character.mk q.1 (decide (q.2 = 0)) true)
    let time := match s.li.rate with
      | .half => 440
      | .one => 220
      | .two => 110
      | .four => 55
    let sending := fun (l : Li) (owner : FrameOwner) (mark : Bool) (bytes : List Byte) =>
      { l with tx := some ⟨owner, mark, characters bytes, s.now, s.now + bytes.length * time⟩ }
    let report := fun (l : Li) (owner : FrameOwner) (mark : Bool) (kind : Byte) (payload : List Byte) =>
      { sending l owner mark (frameBytes 0xA3#8 kind s.li.sequence payload) with
        sequence := s.li.sequence + 1 }
    (∀ r : Reply, s.li.reply = some r →
      exec .transmissionStart s = .next (s.setLi (sending { s.li with reply := none } (.reply r.resetAck) false
        (frameBytes 0xA2#8 r.kind r.tag r.payload)))) ∧
    (s.li.reply = none → s.li.choice = none → exec .transmissionStart s = .next s) ∧
    (s.li.reply = none →
      (∀ p : Pending MotionReport, s.li.choice = some .motion → s.li.motion = some p →
        exec .transmissionStart s = .next { s with
          li := report { s.li with motion := none } .motion false 0x41#8 p.report.payload
          du := { s.du with encoderError := false, rangeEnd := false } }) ∧
      (∀ p : Pending RunstateReport, s.li.choice = some .runstate → s.li.runstate = some p →
        exec .transmissionStart s = .next (s.setLi
          (report { s.li with runstate := none } .runstate false 0x42#8 p.report.payload))) ∧
      (∀ (x : Side) (p : Pending SideReport), s.li.choice = some (.side x) → s.li.side.get x = some p →
        exec .transmissionStart s = .next (s.setLi (report { s.li with side := s.li.side.set x none } (.side x)
          p.report.mark 0x43#8 (p.report.payload x (s.sc.get x))))) ∧
      (∀ (x : Side) (p : Pending CouplingReport), s.li.choice = some (.coupling x) →
        s.li.coupling.get x = some p →
        exec .transmissionStart s = .next (s.setLi (report { s.li with coupling := s.li.coupling.set x none }
          (.coupling x) p.report.mark 0x44#8 (p.report.payload x (s.cs.get x))))) ∧
      (∀ (x : Side) (p : Pending GapReport), s.li.choice = some (.gap x) → s.li.gap.get x = some p →
        exec .transmissionStart s = .next (s.setLi (report { s.li with gap := s.li.gap.set x none } (.gap x)
          false 0x45#8 (p.report.payload x)))) ∧
      (∀ (p : Pending FlawReport) (rest : List (Pending FlawReport)), s.li.choice = some .flaw →
        s.li.flawQueue = p :: rest →
        exec .transmissionStart s = .next (drainEndTest (releaseClusters (s.setLi
          (report { s.li with flawQueue := rest } .flaw false 0x46#8 p.report.payload))))))) ∧
  (let b := fun n : Nat => BitVec.ofNat 8 n
    let bit := fun (c : Bool) (n : Nat) => if c then 2 ^ n else 0
    (∀ r : MotionReport, r.payload =
      [b (bit r.causes.state 0 + bit r.causes.fast 1 + bit r.causes.encoderError 2 + bit r.causes.rangeEnd 3)] ++
        beS32 r.step ++ beS32 r.hwm ++ be24 (r.period.getD 0) ++
        [b r.motion.code, b (bit r.fast 0 + bit r.encoderError 1 + bit r.rangeEnd 2)]) ∧
    (∀ r : RunstateReport, r.payload =
      [b (bit r.causes.start 0 + bit r.causes.stop 1 + bit r.causes.idle 2 + bit r.causes.swap 3 +
          bit r.causes.reset 4), b r.run.code, b r.cause.code] ++
        beS32 r.hwm ++ be16 r.generation.toNat ++ beS32 r.swapStep ++ [b r.swapPlace.code]) ∧
    (∀ (x : Side) (sc : Sc) (r : SideReport), r.payload x sc =
      [b (sideCode x), b sc.state.code, b (bit sc.lowered 0), b sc.level.code, b r.events.toNat] ++
        be16 sc.faultMask.toNat ++ be16 sc.shortMask.toNat ++ [b (bit r.mark 0)]) ∧
    (∀ (x : Side) (cs : Cs) (r : CouplingReport), r.payload x cs =
      [b (sideCode x)] ++ (List.finRange 12).map (fun c => b cs.ratings[c].state.code) ++
        be16 r.changed.toNat ++ [b (bit r.mark 0)]) ∧
    (∀ (x : Side) (r : GapReport), r.payload x =
      [b (sideCode x), b r.ranges.length] ++ r.ranges.flatMap (fun g =>
        beS32 g.first ++ beS32 g.last ++ [b g.causes.toNat] ++ be16 g.channels.toNat ++
          [b g.count, b (bit g.drain 0)])) ∧
    (∀ r : FlawReport, r.payload =
      [b (sideCode r.side)] ++ be16 r.generation.toNat ++ [b r.members.length] ++ beS32 r.first ++ beS32 r.last ++
        beS40 r.release ++ [b r.mode.code] ++ beS32 r.hwm ++ [b r.strongest] ++
        r.members.flatMap (fun i =>
          [b i.shot, b i.gate, b i.tx.val, b i.rx.val] ++ beS32 i.first ++ beS32 i.last ++ be16 i.hits ++
            [b i.peak] ++ beS32 i.peakStep ++ be16 i.peakTof ++ be16 i.tofMin ++ be16 i.tofMax ++
            [b (i.zoneKind.getD 0), b (bit i.flags.interrupted 0 + bit i.flags.saturated 1 +
              bit i.flags.truncated 2 + bit i.flags.long 3 + bit i.flags.planChange 4)])) ∧
    (∀ (cls kind tag : Byte) (payload : List Byte),
      let covered := [b payload.length, kind, tag] ++ payload
      frameBytes cls kind tag payload = [cls] ++ covered ++ be16 (frameCheck covered).toNat) ∧
    frameCheck [] = 0xFFFF#16 ∧
    (∀ (bytes : List Byte) (v : Byte),
      let shift := fun r : BitVec 16 => if r.msb then (r <<< 1) ^^^ 0x1021#16 else r <<< 1
      frameCheck (bytes ++ [v]) =
        shift (shift (shift (shift (shift (shift (shift (shift (frameCheck bytes ^^^ (v.setWidth 16 <<< 8)))))))))) ∧
    (∀ n : Nat, be16 n = [b (n / 256), b n] ∧ be24 n = [b (n / 65536), b (n / 256), b n]) ∧
    (∀ z : Int,
      let n := (z % 4294967296).toNat
      beS32 z = [b (n / 16777216), b (n / 65536), b (n / 256), b n]) ∧
    (∀ z : Int,
      let n := (z % 1099511627776).toNat
      beS40 z = [b (n / 4294967296), b (n / 16777216), b (n / 65536), b (n / 256), b n]))

/-- R165, R166: with the reply slot empty the choice is the pending report created earliest, of those in the slots and
at the head of the flaw queue. `base` is an ordinal from which all of them lie within half the counter's range. -/
def Obligations.OldestReportChosen : Prop :=
  (∀ (l : Li) (c : Candidate), c ∈ l.candidates ↔
    (∃ p, l.motion = some p ∧ c = ⟨.motion, p.ordinal⟩) ∨
    (∃ p, l.runstate = some p ∧ c = ⟨.runstate, p.ordinal⟩) ∨
    (∃ x p, l.side.get x = some p ∧ c = ⟨.side x, p.ordinal⟩) ∨
    (∃ x p, l.coupling.get x = some p ∧ c = ⟨.coupling x, p.ordinal⟩) ∨
    (∃ x p, l.gap.get x = some p ∧ c = ⟨.gap x, p.ordinal⟩) ∨
    ∃ p rest, l.flawQueue = p :: rest ∧ c = ⟨.flaw, p.ordinal⟩) ∧
  ∀ (l : Li) (base : BitVec 16), l.reply = none →
    (∀ c ∈ l.candidates, (c.ordinal - base).toNat ≤ 32767) →
    (l.choice = none ↔ l.candidates = []) ∧
    (∀ o : FrameOwner, l.choice = some o →
      ∃ c ∈ l.candidates, c.owner = o ∧
        ∀ d ∈ l.candidates, (c.ordinal - base).toNat ≤ (d.ordinal - base).toNat)

/-- R168, R181: the end of a transmission. That the end of a RESET's ACK only marks it as sent, for the reset to act by a
command of its own, is the model's choice (log 20). -/
def Obligations.TransmissionEnd : Prop :=
  (∀ (s : State) (t : TxFrame), live s → s.li.tx = some t →
    exec .transmissionEnd s = .next { s with
      now := max s.now t.finish
      li := { s.li with tx := none }
      rc := { s.rc with handler := match s.rc.handler with
        | .ready => .ready
        | .awaitingReset scope sent => .awaitingReset scope (sent || decide (t.owner = .reply true)) } }) ∧
  (∀ s : State, s.li.tx = none → exec .transmissionEnd s = .next s)

/-- R21, R38, R154, R163, R168, R184, R191: the output pins. HOLD_OUT and ALERT are asserted low, HVEN_x1 and HVEN_x0 carry
the supply command's code, and TXD shows the bits of the frame in transmission and is high otherwise. -/
def Obligations.Outputs : Prop :=
  (∀ s : State,
    let code := fun level : HvLevel => match level with
      | .off => (false, false)
      | .low => (false, true)
      | .mid => (true, false)
      | .high => (true, true)
    (live s → (holdOut s = true ↔ 2 ≤ s.li.held.length) ∧
      (alert s = true ↔
        (∃ (x : Side) (p : Pending SideReport), s.li.side.get x = some p ∧ p.report.mark = true) ∨
        (∃ (x : Side) (p : Pending CouplingReport), s.li.coupling.get x = some p ∧ p.report.mark = true) ∨
        (∃ t, s.li.tx = some t ∧ t.mark = true)) ∧
      (∀ x : Side, supplyEnable s x = (s.sc.get x).supply) ∧
      outputPins s = ⟨txd s, !holdOut s, !alert s, (code s.sc.a.supply).1, (code s.sc.a.supply).2,
        (code s.sc.b.supply).1, (code s.sc.b.supply).2⟩) ∧
    (s.pinReset = true → holdOut s = false ∧ alert s = false ∧ (∀ x : Side, supplyEnable s x = .off) ∧
      outputPins s = ⟨true, true, true, false, false, false, false⟩)) ∧
  (∀ s : State, s.li.tx = none → txd s = true) ∧
  (∀ (s : State) (f : TxFrame), live s → s.li.tx = some f →
    let bitTime := match s.li.rate with
      | .half => 40
      | .one => 20
      | .two => 10
      | .four => 5
    (∀ (n i r : Nat) (c : Character), f.characters[n]? = some c → i < 11 → r < bitTime →
      s.now = f.start + (11 * n + i) * bitTime + r →
      txd s = if i = 0 then false
        else if i ≤ 8 then c.data.getLsbD (i - 1)
        else if i = 9 then c.mark
        else c.stop) ∧
    (f.start + 11 * f.characters.length * bitTime ≤ s.now → txd s = true))

/-! ## Resets -/

/-- R182: a RESET with scope RUN acts. It acts by its own command once its ACK has ended (log 20). With the handler READY the
oldest held frame is taken in the same action, as its own request would take it. -/
def Obligations.RunReset : Prop :=
  ∀ s : State, live s → s.rc.handler = .awaitingReset .run true →
    let s1 := { s with
      se := ⟨⟨none, []⟩, ⟨none, []⟩⟩
      it := { s.it with table := Vector.replicate 64 .free, verdicts := ⟨[], []⟩ }
      gr := ⟨⟨⟨none, none, none, none, none⟩⟩, ⟨⟨none, none, none, none, none⟩⟩⟩
      li := { s.li with
        reply := none
        motion := none
        runstate := none
        side := ⟨none, none⟩
        coupling := ⟨none, none⟩
        gap := ⟨none, none⟩
        flawQueue := [] }
      ps := { s.ps with swapPending := false }
      rc := ⟨.idle, .resetRun, .none, s.rc.handler⟩ }
    let s2 := recordsTakeEffect s1
    let t := { s2 with
      li := { s2.li with
        runstate := some ⟨s.li.ordinal,
          ⟨⟨false, false, false, false, true⟩, .idle, .resetRun, s.du.hwm, s.ps.generation, 0, .none⟩⟩
        ordinal := s.li.ordinal + 1 }
      rc := ⟨.idle, .resetRun, .none, .ready⟩ }
    exec .resetRunActs s = .next (takeOldest t) ∧
    (s.li.held = [] → takeOldest t = t) ∧
    (∀ (f : Frame) (rest : List Frame), s.li.held = f :: rest →
      (∀ (c : Instr) (k : Byte) (n : Nat), requestForm c = some (k, n) → f.kind = k →
        exec c t = .next (takeOldest t)) ∧
      (f.kind = 0#8 ∨ 20 < f.kind.toNat → exec .unknownRequestKind t = .next (takeOldest t)))

/-- R17, R39, R59, R77, R102, R127, R142, R153, R169, R183, R187: a RESET with scope FULL acts. The last clause is for
both scopes: an awaited reset of the other scope, or none, does not act (log 20). That a run of unmarked characters does
not survive is the model's choice (log 26). -/
def Obligations.FullReset : Prop :=
  (∀ s : State, live s → s.rc.handler = .awaitingReset .full true →
    let full := fun c : Sc => { Sc.reset c.lowered c.hvrdy c.hvflt with
      carriageInput := c.carriageInput, candidate := c.candidate }
    exec .resetFullActs s = .next { s with
      du := Du.reset s.du.lastPair
      sc := ⟨full s.sc.a, full s.sc.b⟩
      ps := ⟨⟨⟨[], 0⟩, ⟨[], 0⟩⟩, ⟨⟨[], 0⟩, ⟨[], 0⟩⟩, 0, false⟩
      se := ⟨⟨none, []⟩, ⟨none, []⟩⟩
      cs := ⟨Cs.reset, Cs.reset⟩
      it := It.reset
      gr := ⟨Gr.reset, Gr.reset⟩
      li := { s.li with
        receiver := ⟨false, [], false, none⟩
        held := []
        latches := ⟨false, false, false, false, false⟩
        reply := none
        motion := none
        runstate := some ⟨0, ⟨⟨false, false, false, false, true⟩, .idle, .resetFull, 0, 0, 0, .none⟩⟩
        side := ⟨none, none⟩
        coupling := ⟨none, none⟩
        gap := ⟨none, none⟩
        flawQueue := []
        ordinal := 1
        sequence := 0 }
      rc := ⟨.idle, .resetFull, .none, .ready⟩ }) ∧
  (∀ s : State, s.rc.handler ≠ .awaitingReset .run true → exec .resetRunActs s = .next s) ∧
  (∀ s : State, s.rc.handler ≠ .awaitingReset .full true → exec .resetFullActs s = .next s)

/-- R155, R168, R184, R191: RESET_N goes low and is released; while it is low the other commands let time pass at most
(log 16, the model's reading). That no run of unmarked characters is in progress after the release is the model's choice
(log 26). -/
def Obligations.PinReset : Prop :=
  (∀ (s : State) (after : Nat), live s →
    exec (.pinResetAssert after) s = .next { s.advance after with
      se := ⟨⟨none, []⟩, ⟨none, []⟩⟩
      li := { s.li with tx := none }
      boundary := none
      pinReset := true }) ∧
  (∀ (s : State) (after : Nat) (pins : Pins), s.pinReset = true →
    exec (.pinResetRelease after pins) s = .next { State.reset with
      du := { State.reset.du with lastPair := ⟨pins.ea, pins.eb⟩ }
      sc := ⟨Sc.reset pins.carA pins.hvrdyA pins.hvfltA, Sc.reset pins.carB pins.hvrdyB pins.hvfltB⟩
      li := { State.reset.li with
        rate := match pins.rate1, pins.rate0 with
          | false, false => .half
          | false, true => .one
          | true, false => .two
          | true, true => .four
        holdIn := !pins.holdIn }
      pending := s.pending
      now := s.now + after
      free := s.free }) ∧
  (∀ (s : State) (c : Instr), s.pinReset = true → (∀ after pins, c ≠ .pinResetRelease after pins) →
    ∃ after : Nat, exec c s = .next (s.advance after))

/-! ## Laws that every step keeps -/

/-- R3 to R5, R8, R9, R11 to R13, R120: the Distance Unit's ranges; and the law that no side evaluates a step twice: a step
comes to await evaluation only above the high-water mark as it was, a step that no longer awaits it lies at or below the mark,
and only PRESET_POSITION, a RUN reset that takes one, and the full resets lower the mark. -/
def Obligations.DistanceLawKept : Prop :=
  (∀ s t : State, s.du.law → step s = .next t → t.du.law) ∧
  (∀ s t : State, runLaw s → evaluationLaw s → step s = .next t →
    evaluationLaw t ∧
    (t.pinReset = false → ∀ (x : Side) (z : Int), z ∈ t.awaiting x →
      (z ∈ s.awaiting x ∨ s.du.hwm < z) ∧ z ≤ t.du.hwm) ∧
    (t.du.hwm < s.du.hwm → ∃ (c : Instr) (rest : List Instr), s.pending = c :: rest ∧
      (c = .presetPosition ∨ c = .resetRunActs ∨ c = .resetFullActs ∨
        ∃ after pins, c = .pinResetRelease after pins)))

/-- R21, R22: the supply is driven only in ARMING and ARMED; a raised carriage means PARKED or FAULT. -/
def Obligations.SideLawKept : Prop :=
  ∀ s t : State, sideLaw s → step s = .next t → sideLaw t

/-- R40, R52, R93, R94: durations and plan times are current, and the coupling ratings agree with the ACTIVE plan. -/
def Obligations.PlanLawsKept : Prop :=
  ∀ s t : State, plansCurrent s → couplingLaw s → step s = .next t → plansCurrent t ∧ couplingLaw t

/-- R105: for each side and key, at most one indication is OPEN. R104, R106, R124, R128: the law of the Indication Table, with
the caps and the clusters. R140: every FLAW report that joins the flaw queue holds 1 to 8 members of its side and generation,
each with minimum hits ≤ hit count ≤ extent < maximum length + 1. -/
def Obligations.KeysUniqueKept : Prop :=
  (∀ s t : State, keysUnique s.it → step s = .next t → keysUnique t.it) ∧
  (∀ s t : State, runLaw s → evaluationLaw s → trackerLaw s → step s = .next t →
    trackerLaw t ∧
    ∀ p ∈ t.li.flawQueue, p ∈ s.li.flawQueue ∨ p.report.law s.it.settings)

/-- R160, R162, R165: the bounds of the link. -/
def Obligations.LinkLawKept : Prop :=
  ∀ s t : State, s.li.law → step s = .next t → t.li.law

/-- R57, R76, R179: in IDLE the engines are IDLE, no entry is in use, no gap is open and no swap is pending. -/
def Obligations.RunLawKept : Prop :=
  ∀ s t : State, runLaw s → step s = .next t → runLaw t
end

