-- ==== Sys2Proof/Laws/State.lean ====
section
/-! SUPPORT. One lemma for each field under each update of the state, and the laws of the per-side values. -/
namespace Sys2Proof.Machine

/-! ## Per-side values -/

@[simp] theorem PerSide.get_a {α : Type} (p : PerSide α) : p.get .a = p.a := rfl
@[simp] theorem PerSide.get_b {α : Type} (p : PerSide α) : p.get .b = p.b := rfl
@[simp] theorem PerSide.set_a {α : Type} (p : PerSide α) (v : α) : p.set .a v = ⟨v, p.b⟩ := rfl
@[simp] theorem PerSide.set_b {α : Type} (p : PerSide α) (v : α) : p.set .b v = ⟨p.a, v⟩ := rfl

@[simp] theorem PerSide.get_set_self {α : Type} (p : PerSide α) (x : Side) (v : α) : (p.set x v).get x = v := by
  cases x <;> rfl

theorem PerSide.get_set_of_ne {α : Type} (p : PerSide α) (x y : Side) (v : α) (h : y ≠ x) :
    (p.set x v).get y = p.get y := by
  cases x <;> cases y <;> first | rfl | exact absurd rfl h

theorem PerSide.get_set {α : Type} (p : PerSide α) (x y : Side) (v : α) :
    (p.set x v).get y = if y = x then v else p.get y := by
  cases x <;> cases y <;> rfl

@[simp] theorem PerSide.set_set {α : Type} (p : PerSide α) (x : Side) (v w : α) : (p.set x v).set x w = p.set x w := by
  cases x <;> rfl

@[simp] theorem PerSide.set_get {α : Type} (p : PerSide α) (x : Side) : p.set x (p.get x) = p := by
  cases x <;> rfl

theorem PerCause.get_set {α : Type} (p : PerCause α) (c d : GapCause) (v : α) :
    (p.set c v).get d = if d = c then v else p.get d := by
  cases c <;> cases d <;> rfl

/-! ## setDu -/

@[simp] theorem State.setDu_du (s : State) (d : Du) : (s.setDu d).du = d := rfl
@[simp] theorem State.setDu_sc (s : State) (d : Du) : (s.setDu d).sc = s.sc := rfl
@[simp] theorem State.setDu_ps (s : State) (d : Du) : (s.setDu d).ps = s.ps := rfl
@[simp] theorem State.setDu_se (s : State) (d : Du) : (s.setDu d).se = s.se := rfl
@[simp] theorem State.setDu_cs (s : State) (d : Du) : (s.setDu d).cs = s.cs := rfl
@[simp] theorem State.setDu_it (s : State) (d : Du) : (s.setDu d).it = s.it := rfl
@[simp] theorem State.setDu_gr (s : State) (d : Du) : (s.setDu d).gr = s.gr := rfl
@[simp] theorem State.setDu_li (s : State) (d : Du) : (s.setDu d).li = s.li := rfl
@[simp] theorem State.setDu_rc (s : State) (d : Du) : (s.setDu d).rc = s.rc := rfl
@[simp] theorem State.setDu_pending (s : State) (d : Du) : (s.setDu d).pending = s.pending := rfl
@[simp] theorem State.setDu_now (s : State) (d : Du) : (s.setDu d).now = s.now := rfl
@[simp] theorem State.setDu_pinReset (s : State) (d : Du) : (s.setDu d).pinReset = s.pinReset := rfl
@[simp] theorem State.setDu_boundary (s : State) (d : Du) : (s.setDu d).boundary = s.boundary := rfl
@[simp] theorem State.setDu_free (s : State) (d : Du) : (s.setDu d).free = s.free := rfl

/-! ## setSc -/

@[simp] theorem State.setSc_du (s : State) (x : Side) (v : Sc) : (s.setSc x v).du = s.du := rfl
@[simp] theorem State.setSc_sc (s : State) (x : Side) (v : Sc) : (s.setSc x v).sc = s.sc.set x v := rfl
@[simp] theorem State.setSc_ps (s : State) (x : Side) (v : Sc) : (s.setSc x v).ps = s.ps := rfl
@[simp] theorem State.setSc_se (s : State) (x : Side) (v : Sc) : (s.setSc x v).se = s.se := rfl
@[simp] theorem State.setSc_cs (s : State) (x : Side) (v : Sc) : (s.setSc x v).cs = s.cs := rfl
@[simp] theorem State.setSc_it (s : State) (x : Side) (v : Sc) : (s.setSc x v).it = s.it := rfl
@[simp] theorem State.setSc_gr (s : State) (x : Side) (v : Sc) : (s.setSc x v).gr = s.gr := rfl
@[simp] theorem State.setSc_li (s : State) (x : Side) (v : Sc) : (s.setSc x v).li = s.li := rfl
@[simp] theorem State.setSc_rc (s : State) (x : Side) (v : Sc) : (s.setSc x v).rc = s.rc := rfl
@[simp] theorem State.setSc_pending (s : State) (x : Side) (v : Sc) : (s.setSc x v).pending = s.pending := rfl
@[simp] theorem State.setSc_now (s : State) (x : Side) (v : Sc) : (s.setSc x v).now = s.now := rfl
@[simp] theorem State.setSc_pinReset (s : State) (x : Side) (v : Sc) : (s.setSc x v).pinReset = s.pinReset := rfl
@[simp] theorem State.setSc_boundary (s : State) (x : Side) (v : Sc) : (s.setSc x v).boundary = s.boundary := rfl
@[simp] theorem State.setSc_free (s : State) (x : Side) (v : Sc) : (s.setSc x v).free = s.free := rfl

/-! ## setPs -/

@[simp] theorem State.setPs_du (s : State) (p : Ps) : (s.setPs p).du = s.du := rfl
@[simp] theorem State.setPs_sc (s : State) (p : Ps) : (s.setPs p).sc = s.sc := rfl
@[simp] theorem State.setPs_ps (s : State) (p : Ps) : (s.setPs p).ps = p := rfl
@[simp] theorem State.setPs_se (s : State) (p : Ps) : (s.setPs p).se = s.se := rfl
@[simp] theorem State.setPs_cs (s : State) (p : Ps) : (s.setPs p).cs = s.cs := rfl
@[simp] theorem State.setPs_it (s : State) (p : Ps) : (s.setPs p).it = s.it := rfl
@[simp] theorem State.setPs_gr (s : State) (p : Ps) : (s.setPs p).gr = s.gr := rfl
@[simp] theorem State.setPs_li (s : State) (p : Ps) : (s.setPs p).li = s.li := rfl
@[simp] theorem State.setPs_rc (s : State) (p : Ps) : (s.setPs p).rc = s.rc := rfl
@[simp] theorem State.setPs_pending (s : State) (p : Ps) : (s.setPs p).pending = s.pending := rfl
@[simp] theorem State.setPs_now (s : State) (p : Ps) : (s.setPs p).now = s.now := rfl
@[simp] theorem State.setPs_pinReset (s : State) (p : Ps) : (s.setPs p).pinReset = s.pinReset := rfl
@[simp] theorem State.setPs_boundary (s : State) (p : Ps) : (s.setPs p).boundary = s.boundary := rfl
@[simp] theorem State.setPs_free (s : State) (p : Ps) : (s.setPs p).free = s.free := rfl

/-! ## setSe -/

@[simp] theorem State.setSe_du (s : State) (x : Side) (v : Se) : (s.setSe x v).du = s.du := rfl
@[simp] theorem State.setSe_sc (s : State) (x : Side) (v : Se) : (s.setSe x v).sc = s.sc := rfl
@[simp] theorem State.setSe_ps (s : State) (x : Side) (v : Se) : (s.setSe x v).ps = s.ps := rfl
@[simp] theorem State.setSe_se (s : State) (x : Side) (v : Se) : (s.setSe x v).se = s.se.set x v := rfl
@[simp] theorem State.setSe_cs (s : State) (x : Side) (v : Se) : (s.setSe x v).cs = s.cs := rfl
@[simp] theorem State.setSe_it (s : State) (x : Side) (v : Se) : (s.setSe x v).it = s.it := rfl
@[simp] theorem State.setSe_gr (s : State) (x : Side) (v : Se) : (s.setSe x v).gr = s.gr := rfl
@[simp] theorem State.setSe_li (s : State) (x : Side) (v : Se) : (s.setSe x v).li = s.li := rfl
@[simp] theorem State.setSe_rc (s : State) (x : Side) (v : Se) : (s.setSe x v).rc = s.rc := rfl
@[simp] theorem State.setSe_pending (s : State) (x : Side) (v : Se) : (s.setSe x v).pending = s.pending := rfl
@[simp] theorem State.setSe_now (s : State) (x : Side) (v : Se) : (s.setSe x v).now = s.now := rfl
@[simp] theorem State.setSe_pinReset (s : State) (x : Side) (v : Se) : (s.setSe x v).pinReset = s.pinReset := rfl
@[simp] theorem State.setSe_boundary (s : State) (x : Side) (v : Se) : (s.setSe x v).boundary = s.boundary := rfl
@[simp] theorem State.setSe_free (s : State) (x : Side) (v : Se) : (s.setSe x v).free = s.free := rfl

/-! ## setCs -/

@[simp] theorem State.setCs_du (s : State) (x : Side) (v : Cs) : (s.setCs x v).du = s.du := rfl
@[simp] theorem State.setCs_sc (s : State) (x : Side) (v : Cs) : (s.setCs x v).sc = s.sc := rfl
@[simp] theorem State.setCs_ps (s : State) (x : Side) (v : Cs) : (s.setCs x v).ps = s.ps := rfl
@[simp] theorem State.setCs_se (s : State) (x : Side) (v : Cs) : (s.setCs x v).se = s.se := rfl
@[simp] theorem State.setCs_cs (s : State) (x : Side) (v : Cs) : (s.setCs x v).cs = s.cs.set x v := rfl
@[simp] theorem State.setCs_it (s : State) (x : Side) (v : Cs) : (s.setCs x v).it = s.it := rfl
@[simp] theorem State.setCs_gr (s : State) (x : Side) (v : Cs) : (s.setCs x v).gr = s.gr := rfl
@[simp] theorem State.setCs_li (s : State) (x : Side) (v : Cs) : (s.setCs x v).li = s.li := rfl
@[simp] theorem State.setCs_rc (s : State) (x : Side) (v : Cs) : (s.setCs x v).rc = s.rc := rfl
@[simp] theorem State.setCs_pending (s : State) (x : Side) (v : Cs) : (s.setCs x v).pending = s.pending := rfl
@[simp] theorem State.setCs_now (s : State) (x : Side) (v : Cs) : (s.setCs x v).now = s.now := rfl
@[simp] theorem State.setCs_pinReset (s : State) (x : Side) (v : Cs) : (s.setCs x v).pinReset = s.pinReset := rfl
@[simp] theorem State.setCs_boundary (s : State) (x : Side) (v : Cs) : (s.setCs x v).boundary = s.boundary := rfl
@[simp] theorem State.setCs_free (s : State) (x : Side) (v : Cs) : (s.setCs x v).free = s.free := rfl

/-! ## setIt -/

@[simp] theorem State.setIt_du (s : State) (t : It) : (s.setIt t).du = s.du := rfl
@[simp] theorem State.setIt_sc (s : State) (t : It) : (s.setIt t).sc = s.sc := rfl
@[simp] theorem State.setIt_ps (s : State) (t : It) : (s.setIt t).ps = s.ps := rfl
@[simp] theorem State.setIt_se (s : State) (t : It) : (s.setIt t).se = s.se := rfl
@[simp] theorem State.setIt_cs (s : State) (t : It) : (s.setIt t).cs = s.cs := rfl
@[simp] theorem State.setIt_it (s : State) (t : It) : (s.setIt t).it = t := rfl
@[simp] theorem State.setIt_gr (s : State) (t : It) : (s.setIt t).gr = s.gr := rfl
@[simp] theorem State.setIt_li (s : State) (t : It) : (s.setIt t).li = s.li := rfl
@[simp] theorem State.setIt_rc (s : State) (t : It) : (s.setIt t).rc = s.rc := rfl
@[simp] theorem State.setIt_pending (s : State) (t : It) : (s.setIt t).pending = s.pending := rfl
@[simp] theorem State.setIt_now (s : State) (t : It) : (s.setIt t).now = s.now := rfl
@[simp] theorem State.setIt_pinReset (s : State) (t : It) : (s.setIt t).pinReset = s.pinReset := rfl
@[simp] theorem State.setIt_boundary (s : State) (t : It) : (s.setIt t).boundary = s.boundary := rfl
@[simp] theorem State.setIt_free (s : State) (t : It) : (s.setIt t).free = s.free := rfl

/-! ## setGr -/

@[simp] theorem State.setGr_du (s : State) (x : Side) (v : Gr) : (s.setGr x v).du = s.du := rfl
@[simp] theorem State.setGr_sc (s : State) (x : Side) (v : Gr) : (s.setGr x v).sc = s.sc := rfl
@[simp] theorem State.setGr_ps (s : State) (x : Side) (v : Gr) : (s.setGr x v).ps = s.ps := rfl
@[simp] theorem State.setGr_se (s : State) (x : Side) (v : Gr) : (s.setGr x v).se = s.se := rfl
@[simp] theorem State.setGr_cs (s : State) (x : Side) (v : Gr) : (s.setGr x v).cs = s.cs := rfl
@[simp] theorem State.setGr_it (s : State) (x : Side) (v : Gr) : (s.setGr x v).it = s.it := rfl
@[simp] theorem State.setGr_gr (s : State) (x : Side) (v : Gr) : (s.setGr x v).gr = s.gr.set x v := rfl
@[simp] theorem State.setGr_li (s : State) (x : Side) (v : Gr) : (s.setGr x v).li = s.li := rfl
@[simp] theorem State.setGr_rc (s : State) (x : Side) (v : Gr) : (s.setGr x v).rc = s.rc := rfl
@[simp] theorem State.setGr_pending (s : State) (x : Side) (v : Gr) : (s.setGr x v).pending = s.pending := rfl
@[simp] theorem State.setGr_now (s : State) (x : Side) (v : Gr) : (s.setGr x v).now = s.now := rfl
@[simp] theorem State.setGr_pinReset (s : State) (x : Side) (v : Gr) : (s.setGr x v).pinReset = s.pinReset := rfl
@[simp] theorem State.setGr_boundary (s : State) (x : Side) (v : Gr) : (s.setGr x v).boundary = s.boundary := rfl
@[simp] theorem State.setGr_free (s : State) (x : Side) (v : Gr) : (s.setGr x v).free = s.free := rfl

/-! ## setLi -/

@[simp] theorem State.setLi_du (s : State) (l : Li) : (s.setLi l).du = s.du := rfl
@[simp] theorem State.setLi_sc (s : State) (l : Li) : (s.setLi l).sc = s.sc := rfl
@[simp] theorem State.setLi_ps (s : State) (l : Li) : (s.setLi l).ps = s.ps := rfl
@[simp] theorem State.setLi_se (s : State) (l : Li) : (s.setLi l).se = s.se := rfl
@[simp] theorem State.setLi_cs (s : State) (l : Li) : (s.setLi l).cs = s.cs := rfl
@[simp] theorem State.setLi_it (s : State) (l : Li) : (s.setLi l).it = s.it := rfl
@[simp] theorem State.setLi_gr (s : State) (l : Li) : (s.setLi l).gr = s.gr := rfl
@[simp] theorem State.setLi_li (s : State) (l : Li) : (s.setLi l).li = l := rfl
@[simp] theorem State.setLi_rc (s : State) (l : Li) : (s.setLi l).rc = s.rc := rfl
@[simp] theorem State.setLi_pending (s : State) (l : Li) : (s.setLi l).pending = s.pending := rfl
@[simp] theorem State.setLi_now (s : State) (l : Li) : (s.setLi l).now = s.now := rfl
@[simp] theorem State.setLi_pinReset (s : State) (l : Li) : (s.setLi l).pinReset = s.pinReset := rfl
@[simp] theorem State.setLi_boundary (s : State) (l : Li) : (s.setLi l).boundary = s.boundary := rfl
@[simp] theorem State.setLi_free (s : State) (l : Li) : (s.setLi l).free = s.free := rfl

/-! ## setRc -/

@[simp] theorem State.setRc_du (s : State) (r : Rc) : (s.setRc r).du = s.du := rfl
@[simp] theorem State.setRc_sc (s : State) (r : Rc) : (s.setRc r).sc = s.sc := rfl
@[simp] theorem State.setRc_ps (s : State) (r : Rc) : (s.setRc r).ps = s.ps := rfl
@[simp] theorem State.setRc_se (s : State) (r : Rc) : (s.setRc r).se = s.se := rfl
@[simp] theorem State.setRc_cs (s : State) (r : Rc) : (s.setRc r).cs = s.cs := rfl
@[simp] theorem State.setRc_it (s : State) (r : Rc) : (s.setRc r).it = s.it := rfl
@[simp] theorem State.setRc_gr (s : State) (r : Rc) : (s.setRc r).gr = s.gr := rfl
@[simp] theorem State.setRc_li (s : State) (r : Rc) : (s.setRc r).li = s.li := rfl
@[simp] theorem State.setRc_rc (s : State) (r : Rc) : (s.setRc r).rc = r := rfl
@[simp] theorem State.setRc_pending (s : State) (r : Rc) : (s.setRc r).pending = s.pending := rfl
@[simp] theorem State.setRc_now (s : State) (r : Rc) : (s.setRc r).now = s.now := rfl
@[simp] theorem State.setRc_pinReset (s : State) (r : Rc) : (s.setRc r).pinReset = s.pinReset := rfl
@[simp] theorem State.setRc_boundary (s : State) (r : Rc) : (s.setRc r).boundary = s.boundary := rfl
@[simp] theorem State.setRc_free (s : State) (r : Rc) : (s.setRc r).free = s.free := rfl

/-! ## setBoundary -/

@[simp] theorem State.setBoundary_du (s : State) (b : Option Int) : (s.setBoundary b).du = s.du := rfl
@[simp] theorem State.setBoundary_sc (s : State) (b : Option Int) : (s.setBoundary b).sc = s.sc := rfl
@[simp] theorem State.setBoundary_ps (s : State) (b : Option Int) : (s.setBoundary b).ps = s.ps := rfl
@[simp] theorem State.setBoundary_se (s : State) (b : Option Int) : (s.setBoundary b).se = s.se := rfl
@[simp] theorem State.setBoundary_cs (s : State) (b : Option Int) : (s.setBoundary b).cs = s.cs := rfl
@[simp] theorem State.setBoundary_it (s : State) (b : Option Int) : (s.setBoundary b).it = s.it := rfl
@[simp] theorem State.setBoundary_gr (s : State) (b : Option Int) : (s.setBoundary b).gr = s.gr := rfl
@[simp] theorem State.setBoundary_li (s : State) (b : Option Int) : (s.setBoundary b).li = s.li := rfl
@[simp] theorem State.setBoundary_rc (s : State) (b : Option Int) : (s.setBoundary b).rc = s.rc := rfl
@[simp] theorem State.setBoundary_pending (s : State) (b : Option Int) : (s.setBoundary b).pending = s.pending := rfl
@[simp] theorem State.setBoundary_now (s : State) (b : Option Int) : (s.setBoundary b).now = s.now := rfl
@[simp] theorem State.setBoundary_pinReset (s : State) (b : Option Int) : (s.setBoundary b).pinReset = s.pinReset := rfl
@[simp] theorem State.setBoundary_boundary (s : State) (b : Option Int) : (s.setBoundary b).boundary = b := rfl
@[simp] theorem State.setBoundary_free (s : State) (b : Option Int) : (s.setBoundary b).free = s.free := rfl

/-! ## advance -/

@[simp] theorem State.advance_du (s : State) (t : Nat) : (s.advance t).du = s.du := rfl
@[simp] theorem State.advance_sc (s : State) (t : Nat) : (s.advance t).sc = s.sc := rfl
@[simp] theorem State.advance_ps (s : State) (t : Nat) : (s.advance t).ps = s.ps := rfl
@[simp] theorem State.advance_se (s : State) (t : Nat) : (s.advance t).se = s.se := rfl
@[simp] theorem State.advance_cs (s : State) (t : Nat) : (s.advance t).cs = s.cs := rfl
@[simp] theorem State.advance_it (s : State) (t : Nat) : (s.advance t).it = s.it := rfl
@[simp] theorem State.advance_gr (s : State) (t : Nat) : (s.advance t).gr = s.gr := rfl
@[simp] theorem State.advance_li (s : State) (t : Nat) : (s.advance t).li = s.li := rfl
@[simp] theorem State.advance_rc (s : State) (t : Nat) : (s.advance t).rc = s.rc := rfl
@[simp] theorem State.advance_pending (s : State) (t : Nat) : (s.advance t).pending = s.pending := rfl
@[simp] theorem State.advance_now (s : State) (t : Nat) : (s.advance t).now = s.now + t := rfl
@[simp] theorem State.advance_pinReset (s : State) (t : Nat) : (s.advance t).pinReset = s.pinReset := rfl
@[simp] theorem State.advance_boundary (s : State) (t : Nat) : (s.advance t).boundary = s.boundary := rfl
@[simp] theorem State.advance_free (s : State) (t : Nat) : (s.advance t).free = s.free := rfl

/-! ## advanceTo -/

@[simp] theorem State.advanceTo_du (s : State) (t : Nat) : (s.advanceTo t).du = s.du := rfl
@[simp] theorem State.advanceTo_sc (s : State) (t : Nat) : (s.advanceTo t).sc = s.sc := rfl
@[simp] theorem State.advanceTo_ps (s : State) (t : Nat) : (s.advanceTo t).ps = s.ps := rfl
@[simp] theorem State.advanceTo_se (s : State) (t : Nat) : (s.advanceTo t).se = s.se := rfl
@[simp] theorem State.advanceTo_cs (s : State) (t : Nat) : (s.advanceTo t).cs = s.cs := rfl
@[simp] theorem State.advanceTo_it (s : State) (t : Nat) : (s.advanceTo t).it = s.it := rfl
@[simp] theorem State.advanceTo_gr (s : State) (t : Nat) : (s.advanceTo t).gr = s.gr := rfl
@[simp] theorem State.advanceTo_li (s : State) (t : Nat) : (s.advanceTo t).li = s.li := rfl
@[simp] theorem State.advanceTo_rc (s : State) (t : Nat) : (s.advanceTo t).rc = s.rc := rfl
@[simp] theorem State.advanceTo_pending (s : State) (t : Nat) : (s.advanceTo t).pending = s.pending := rfl
@[simp] theorem State.advanceTo_now (s : State) (t : Nat) : (s.advanceTo t).now = max s.now t := rfl
@[simp] theorem State.advanceTo_pinReset (s : State) (t : Nat) : (s.advanceTo t).pinReset = s.pinReset := rfl
@[simp] theorem State.advanceTo_boundary (s : State) (t : Nat) : (s.advanceTo t).boundary = s.boundary := rfl
@[simp] theorem State.advanceTo_free (s : State) (t : Nat) : (s.advanceTo t).free = s.free := rfl

/-! ## setTrack and setRecorder -/

@[simp] theorem State.setTrack_du (s : State) (k : Track) : (s.setTrack k).du = s.du := rfl
@[simp] theorem State.setTrack_sc (s : State) (k : Track) : (s.setTrack k).sc = s.sc := rfl
@[simp] theorem State.setTrack_ps (s : State) (k : Track) : (s.setTrack k).ps = s.ps := rfl
@[simp] theorem State.setTrack_se (s : State) (k : Track) : (s.setTrack k).se = s.se := rfl
@[simp] theorem State.setTrack_cs (s : State) (k : Track) : (s.setTrack k).cs = s.cs := rfl
@[simp] theorem State.setTrack_it (s : State) (k : Track) : (s.setTrack k).it = k.it := rfl
@[simp] theorem State.setTrack_gr (s : State) (k : Track) : (s.setTrack k).gr = s.gr := rfl
@[simp] theorem State.setTrack_li (s : State) (k : Track) : (s.setTrack k).li = k.li := rfl
@[simp] theorem State.setTrack_rc (s : State) (k : Track) : (s.setTrack k).rc = s.rc := rfl
@[simp] theorem State.setTrack_pending (s : State) (k : Track) : (s.setTrack k).pending = s.pending := rfl
@[simp] theorem State.setTrack_now (s : State) (k : Track) : (s.setTrack k).now = s.now := rfl
@[simp] theorem State.setTrack_pinReset (s : State) (k : Track) : (s.setTrack k).pinReset = s.pinReset := rfl
@[simp] theorem State.setTrack_boundary (s : State) (k : Track) : (s.setTrack k).boundary = s.boundary := rfl
@[simp] theorem State.setTrack_free (s : State) (k : Track) : (s.setTrack k).free = s.free := rfl

@[simp] theorem State.setRecorder_du (s : State) (x : Side) (r : Recorder) :
    (s.setRecorder x r).du = s.du := rfl
@[simp] theorem State.setRecorder_sc (s : State) (x : Side) (r : Recorder) :
    (s.setRecorder x r).sc = s.sc := rfl
@[simp] theorem State.setRecorder_ps (s : State) (x : Side) (r : Recorder) :
    (s.setRecorder x r).ps = s.ps := rfl
@[simp] theorem State.setRecorder_se (s : State) (x : Side) (r : Recorder) :
    (s.setRecorder x r).se = s.se := rfl
@[simp] theorem State.setRecorder_cs (s : State) (x : Side) (r : Recorder) :
    (s.setRecorder x r).cs = s.cs := rfl
@[simp] theorem State.setRecorder_it (s : State) (x : Side) (r : Recorder) :
    (s.setRecorder x r).it = s.it := rfl
@[simp] theorem State.setRecorder_gr (s : State) (x : Side) (r : Recorder) :
    (s.setRecorder x r).gr = s.gr.set x r.gr := rfl
@[simp] theorem State.setRecorder_li (s : State) (x : Side) (r : Recorder) :
    (s.setRecorder x r).li = r.li := rfl
@[simp] theorem State.setRecorder_rc (s : State) (x : Side) (r : Recorder) :
    (s.setRecorder x r).rc = s.rc := rfl
@[simp] theorem State.setRecorder_pending (s : State) (x : Side) (r : Recorder) :
    (s.setRecorder x r).pending = s.pending := rfl
@[simp] theorem State.setRecorder_now (s : State) (x : Side) (r : Recorder) :
    (s.setRecorder x r).now = s.now := rfl
@[simp] theorem State.setRecorder_pinReset (s : State) (x : Side) (r : Recorder) :
    (s.setRecorder x r).pinReset = s.pinReset := rfl
@[simp] theorem State.setRecorder_boundary (s : State) (x : Side) (r : Recorder) :
    (s.setRecorder x r).boundary = s.boundary := rfl
@[simp] theorem State.setRecorder_free (s : State) (x : Side) (r : Recorder) :
    (s.setRecorder x r).free = s.free := rfl

/-! ## modifySc and modifyFiring -/

@[simp] theorem State.modifySc_du (s : State) (x : Side) (g : Sc → Sc) : (s.modifySc x g).du = s.du := rfl
@[simp] theorem State.modifySc_sc (s : State) (x : Side) (g : Sc → Sc) : (s.modifySc x g).sc = s.sc.set x (g (s.sc.get x)) := rfl
@[simp] theorem State.modifySc_ps (s : State) (x : Side) (g : Sc → Sc) : (s.modifySc x g).ps = s.ps := rfl
@[simp] theorem State.modifySc_se (s : State) (x : Side) (g : Sc → Sc) : (s.modifySc x g).se = s.se := rfl
@[simp] theorem State.modifySc_cs (s : State) (x : Side) (g : Sc → Sc) : (s.modifySc x g).cs = s.cs := rfl
@[simp] theorem State.modifySc_it (s : State) (x : Side) (g : Sc → Sc) : (s.modifySc x g).it = s.it := rfl
@[simp] theorem State.modifySc_gr (s : State) (x : Side) (g : Sc → Sc) : (s.modifySc x g).gr = s.gr := rfl
@[simp] theorem State.modifySc_li (s : State) (x : Side) (g : Sc → Sc) : (s.modifySc x g).li = s.li := rfl
@[simp] theorem State.modifySc_rc (s : State) (x : Side) (g : Sc → Sc) : (s.modifySc x g).rc = s.rc := rfl
@[simp] theorem State.modifySc_pending (s : State) (x : Side) (g : Sc → Sc) : (s.modifySc x g).pending = s.pending := rfl
@[simp] theorem State.modifySc_now (s : State) (x : Side) (g : Sc → Sc) : (s.modifySc x g).now = s.now := rfl
@[simp] theorem State.modifySc_pinReset (s : State) (x : Side) (g : Sc → Sc) : (s.modifySc x g).pinReset = s.pinReset := rfl
@[simp] theorem State.modifySc_boundary (s : State) (x : Side) (g : Sc → Sc) : (s.modifySc x g).boundary = s.boundary := rfl
@[simp] theorem State.modifySc_free (s : State) (x : Side) (g : Sc → Sc) : (s.modifySc x g).free = s.free := rfl

@[simp] theorem State.modifyFiring_du (s : State) (x : Side) (g : Firing → Firing) :
    (s.modifyFiring x g).du = s.du := rfl
@[simp] theorem State.modifyFiring_sc (s : State) (x : Side) (g : Firing → Firing) :
    (s.modifyFiring x g).sc = s.sc := rfl
@[simp] theorem State.modifyFiring_ps (s : State) (x : Side) (g : Firing → Firing) :
    (s.modifyFiring x g).ps = s.ps := rfl
@[simp] theorem State.modifyFiring_cs (s : State) (x : Side) (g : Firing → Firing) :
    (s.modifyFiring x g).cs = s.cs := rfl
@[simp] theorem State.modifyFiring_it (s : State) (x : Side) (g : Firing → Firing) :
    (s.modifyFiring x g).it = s.it := rfl
@[simp] theorem State.modifyFiring_gr (s : State) (x : Side) (g : Firing → Firing) :
    (s.modifyFiring x g).gr = s.gr := rfl
@[simp] theorem State.modifyFiring_li (s : State) (x : Side) (g : Firing → Firing) :
    (s.modifyFiring x g).li = s.li := rfl
@[simp] theorem State.modifyFiring_rc (s : State) (x : Side) (g : Firing → Firing) :
    (s.modifyFiring x g).rc = s.rc := rfl
@[simp] theorem State.modifyFiring_pending (s : State) (x : Side) (g : Firing → Firing) :
    (s.modifyFiring x g).pending = s.pending := rfl
@[simp] theorem State.modifyFiring_now (s : State) (x : Side) (g : Firing → Firing) :
    (s.modifyFiring x g).now = s.now := rfl
@[simp] theorem State.modifyFiring_pinReset (s : State) (x : Side) (g : Firing → Firing) :
    (s.modifyFiring x g).pinReset = s.pinReset := rfl
@[simp] theorem State.modifyFiring_boundary (s : State) (x : Side) (g : Firing → Firing) :
    (s.modifyFiring x g).boundary = s.boundary := rfl
@[simp] theorem State.modifyFiring_free (s : State) (x : Side) (g : Firing → Firing) :
    (s.modifyFiring x g).free = s.free := rfl

/-- Two changes of one Side Controller are one. -/
@[simp] theorem State.modifySc_modifySc (s : State) (x : Side) (g h : Sc → Sc) :
    (s.modifySc x g).modifySc x h = s.modifySc x (fun c => h (g c)) := by
  simp [State.modifySc, State.setSc]

/-! ## The live part -/

@[simp] theorem State.whenLive_live (s : State) (f : State → State) (h : s.pinReset = false) : s.whenLive f = f s := by
  simp [State.whenLive, h]

@[simp] theorem State.whenLive_reset (s : State) (f : State → State) (h : s.pinReset = true) : s.whenLive f = s := by
  simp [State.whenLive, h]

/-- An input event while RESET_N is released. -/
theorem State.whenLive_advance (s : State) (t : Nat) (f : State → State) (h : s.pinReset = false) :
    (s.advance t).whenLive f = f (s.advance t) := State.whenLive_live (s.advance t) f h

end Sys2Proof.Machine
end

