-- ==== Sys2Proof/Laws/Frames.lean ====
section
/-! SUPPORT. What the block's inner operations leave alone, said once for each of them: `Internal s t` relates a state
and the state after a piece of inner work (a drain, a step evaluation, a list worked on, a report placed). -/
namespace Sys2Proof.Machine

/-- The parts of the state that no inner work changes. -/
structure Internal (s t : State) : Prop where
  pending : t.pending = s.pending
  now : t.now = s.now
  pinReset : t.pinReset = s.pinReset
  boundary : t.boundary = s.boundary
  du : ∃ b, t.du = { s.du with fast := b } ∧ (b = s.du.fast ∨ ∃ n, b = fastOf s.du.period n)
  sc : ∀ x, ∃ ch pr, t.sc.get x = { s.sc.get x with channels := ch, pendingRecords := pr }
  settings : t.it.settings = s.it.settings
  zones : t.it.zones = s.it.zones
  offset : t.it.offset = s.it.offset
  rate : t.li.rate = s.li.rate
  receiver : t.li.receiver = s.li.receiver
  held : t.li.held = s.li.held
  latches : t.li.latches = s.li.latches
  reply : t.li.reply = s.li.reply
  sequence : t.li.sequence = s.li.sequence
  tx : t.li.tx = s.li.tx
  holdIn : t.li.holdIn = s.li.holdIn
  handler : t.rc.handler = s.rc.handler

theorem Internal.refl (s : State) : Internal s s :=
  ⟨rfl, rfl, rfl, rfl, ⟨_, rfl, .inl rfl⟩, fun _ => ⟨_, _, rfl⟩, rfl, rfl, rfl, rfl, rfl, rfl, rfl, rfl, rfl, rfl, rfl, rfl⟩

theorem Internal.trans {s t u : State} (h : Internal s t) (k : Internal t u) : Internal s u where
  pending := k.pending.trans h.pending
  now := k.now.trans h.now
  pinReset := k.pinReset.trans h.pinReset
  boundary := k.boundary.trans h.boundary
  du := by
    obtain ⟨b, hb, hb'⟩ := h.du
    obtain ⟨c, hc, hc'⟩ := k.du
    refine ⟨c, by rw [hc, hb], ?_⟩
    rcases hc' with rfl | ⟨n, rfl⟩
    · rw [hb]; exact hb'
    · right; exact ⟨n, by rw [hb]⟩
  sc := fun x => by
    obtain ⟨_, _, h1⟩ := h.sc x
    obtain ⟨c, p, h2⟩ := k.sc x
    exact ⟨c, p, by rw [h2, h1]⟩
  settings := k.settings.trans h.settings
  zones := k.zones.trans h.zones
  offset := k.offset.trans h.offset
  rate := k.rate.trans h.rate
  receiver := k.receiver.trans h.receiver
  held := k.held.trans h.held
  latches := k.latches.trans h.latches
  reply := k.reply.trans h.reply
  sequence := k.sequence.trans h.sequence
  tx := k.tx.trans h.tx
  holdIn := k.holdIn.trans h.holdIn
  handler := k.handler.trans h.handler

/-- Inner work leaves the side state. -/
theorem Internal.sideState {s t : State} (h : Internal s t) (x : Side) : (t.sc.get x).state = (s.sc.get x).state := by
  obtain ⟨_, _, e⟩ := h.sc x; rw [e]

/-- Inner work leaves the level of HVFLT. -/
theorem Internal.hvflt {s t : State} (h : Internal s t) (x : Side) : (t.sc.get x).hvflt = (s.sc.get x).hvflt := by
  obtain ⟨_, _, e⟩ := h.sc x; rw [e]

/-- Inner work leaves the high-water mark. -/
theorem Internal.hwm {s t : State} (h : Internal s t) : t.du.hwm = s.du.hwm := by
  obtain ⟨_, e, _⟩ := h.du; rw [e]

/-! ## The link's slots -/

/-- Two links that differ in their slots, flaw queue and ordinal counter alone. -/
structure SlotsOnly (l m : Li) : Prop where
  rate : m.rate = l.rate
  receiver : m.receiver = l.receiver
  held : m.held = l.held
  latches : m.latches = l.latches
  reply : m.reply = l.reply
  sequence : m.sequence = l.sequence
  tx : m.tx = l.tx
  holdIn : m.holdIn = l.holdIn

theorem SlotsOnly.refl (l : Li) : SlotsOnly l l := ⟨rfl, rfl, rfl, rfl, rfl, rfl, rfl, rfl⟩

theorem SlotsOnly.trans {l m n : Li} (h : SlotsOnly l m) (k : SlotsOnly m n) : SlotsOnly l n :=
  ⟨k.rate.trans h.rate, k.receiver.trans h.receiver, k.held.trans h.held, k.latches.trans h.latches,
    k.reply.trans h.reply, k.sequence.trans h.sequence, k.tx.trans h.tx, k.holdIn.trans h.holdIn⟩

theorem Li.placeMotion_slots (c : MotionCauses) (r : MotionReport) (l : Li) : SlotsOnly l (l.placeMotion c r) := by
  unfold Li.placeMotion; split <;> exact ⟨rfl, rfl, rfl, rfl, rfl, rfl, rfl, rfl⟩

theorem Li.placeRunstate_slots (c : RunCauses) (w : Option (Int × SwapPlace)) (r : RunstateReport) (l : Li) :
    SlotsOnly l (l.placeRunstate c w r) := by
  unfold Li.placeRunstate; split <;> exact ⟨rfl, rfl, rfl, rfl, rfl, rfl, rfl, rfl⟩

theorem Li.placeSide_slots (x : Side) (e : BitVec 6) (m : Bool) (l : Li) : SlotsOnly l (l.placeSide x e m) := by
  unfold Li.placeSide; split <;> exact ⟨rfl, rfl, rfl, rfl, rfl, rfl, rfl, rfl⟩

theorem Li.placeCoupling_slots (x : Side) (c : Channel) (m : Bool) (l : Li) : SlotsOnly l (l.placeCoupling x c m) := by
  unfold Li.placeCoupling; split <;> exact ⟨rfl, rfl, rfl, rfl, rfl, rfl, rfl, rfl⟩

theorem Li.placeGap_slots (x : Side) (g : GapRange) (l : Li) : SlotsOnly l (l.placeGap x g) := by
  unfold Li.placeGap; split <;> exact ⟨rfl, rfl, rfl, rfl, rfl, rfl, rfl, rfl⟩

theorem Li.appendFlaw_slots (r : FlawReport) (l : Li) : SlotsOnly l (l.appendFlaw r) :=
  ⟨rfl, rfl, rfl, rfl, rfl, rfl, rfl, rfl⟩

/-- A change of slots is inner work. -/
theorem Internal.ofSlots (s : State) (l : Li) (h : SlotsOnly s.li l) : Internal s (s.setLi l) :=
  ⟨rfl, rfl, rfl, rfl, ⟨_, rfl, .inl rfl⟩, fun _ => ⟨_, _, rfl⟩, rfl, rfl, rfl, h.rate, h.receiver, h.held, h.latches,
    h.reply, h.sequence, h.tx, h.holdIn, rfl⟩

/-! ## Changes of one block -/

theorem Internal.ofSe (s : State) (x : Side) (v : Se) : Internal s (s.setSe x v) :=
  ⟨rfl, rfl, rfl, rfl, ⟨_, rfl, .inl rfl⟩, fun _ => ⟨_, _, rfl⟩, rfl, rfl, rfl, rfl, rfl, rfl, rfl, rfl, rfl, rfl, rfl, rfl⟩

theorem Internal.ofCs (s : State) (x : Side) (v : Cs) : Internal s (s.setCs x v) :=
  ⟨rfl, rfl, rfl, rfl, ⟨_, rfl, .inl rfl⟩, fun _ => ⟨_, _, rfl⟩, rfl, rfl, rfl, rfl, rfl, rfl, rfl, rfl, rfl, rfl, rfl, rfl⟩

theorem Internal.ofPs (s : State) (v : Ps) : Internal s (s.setPs v) :=
  ⟨rfl, rfl, rfl, rfl, ⟨_, rfl, .inl rfl⟩, fun _ => ⟨_, _, rfl⟩, rfl, rfl, rfl, rfl, rfl, rfl, rfl, rfl, rfl, rfl, rfl, rfl⟩

theorem Internal.ofRc (s : State) (v : Rc) (h : v.handler = s.rc.handler) : Internal s (s.setRc v) :=
  ⟨rfl, rfl, rfl, rfl, ⟨_, rfl, .inl rfl⟩, fun _ => ⟨_, _, rfl⟩, rfl, rfl, rfl, rfl, rfl, rfl, rfl, rfl, rfl, rfl, rfl, h⟩

theorem Internal.ofFiring (s : State) (x : Side) (g : Firing → Firing) : Internal s (s.modifyFiring x g) :=
  Internal.ofSe s x _

/-! ## Reports and plans -/

theorem placeRunstate_internal (c : RunCauses) (w : Option (Int × SwapPlace)) (s : State) :
    Internal s (placeRunstate c w s) := Internal.ofSlots _ _ (Li.placeRunstate_slots _ _ _ _)

theorem recomputeFast_internal (s : State) : Internal s (recomputeFast s) := by
  have h : Internal s (s.setDu { s.du with fast := fastOf s.du.period s.ps.active.longerPlanTime }) :=
    ⟨rfl, rfl, rfl, rfl, ⟨_, rfl, .inr ⟨_, rfl⟩⟩, fun _ => ⟨_, _, rfl⟩, rfl, rfl, rfl, rfl, rfl, rfl, rfl, rfl, rfl, rfl,
      rfl, rfl⟩
  unfold recomputeFast commitDu
  dsimp only
  split
  · exact h.trans (Internal.ofSlots _ _ (Li.placeMotion_slots _ _ _))
  · exact h

theorem swapPlans_internal (s : State) : Internal s (swapPlans s) := by
  unfold swapPlans
  exact (((Internal.ofPs s _).trans (recomputeFast_internal _)).trans (Internal.ofCs _ _ _)).trans (Internal.ofCs _ _ _)

theorem recordTakesEffect_internal (x : Side) (s : State) (ch : Channel) : Internal s (recordTakesEffect x s ch) := by
  unfold recordTakesEffect
  split
  · exact .refl s
  · refine ⟨rfl, rfl, rfl, rfl, ⟨_, rfl, .inl rfl⟩, fun y => ?_, rfl, rfl, rfl, rfl, rfl, rfl, rfl, rfl, rfl, rfl, rfl, rfl⟩
    simp only [State.setCs_sc, State.modifySc_sc, PerSide.get_set]
    split
    · subst_vars; exact ⟨_, _, rfl⟩
    · exact ⟨_, _, rfl⟩

/-- A fold of inner work is inner work. -/
theorem Internal.foldl {α : Type} (g : State → α → State) (h : ∀ s a, Internal s (g s a)) :
    ∀ (l : List α) (s : State), Internal s (l.foldl g s)
  | [], s => .refl s
  | a :: l, s => (h s a).trans (Internal.foldl g h l (g s a))

theorem recordsTakeEffect_internal (s : State) : Internal s (recordsTakeEffect s) :=
  (Internal.foldl _ (recordTakesEffect_internal .a) _ s).trans
    (Internal.foldl _ (recordTakesEffect_internal .b) _ _)

/-! ## Gaps -/

theorem Recorder.closeGap_slots (x : Side) (drain : Bool) (r : Recorder) (c : GapCause) :
    SlotsOnly r.li (r.closeGap x drain c).li := by
  unfold Recorder.closeGap
  split
  · exact .refl _
  · exact Li.placeGap_slots _ _ _

theorem Recorder.foldl_slots {α : Type} (g : Recorder → α → Recorder) (h : ∀ r a, SlotsOnly r.li (g r a).li) :
    ∀ (l : List α) (r : Recorder), SlotsOnly r.li (l.foldl g r).li
  | [], r => .refl r.li
  | a :: l, r => (h r a).trans (Recorder.foldl_slots g h l (g r a))

theorem Recorder.absent_slots (x : Side) (causes : GapCause → Mask) (r : Recorder) (c : GapCause) :
    SlotsOnly r.li (r.absent x causes c).li := by
  unfold Recorder.absent
  split
  · exact Recorder.closeGap_slots _ _ _ _
  · exact .refl _

theorem Recorder.evaluate_slots (x : Side) (z : Int) (causes : GapCause → Mask) (r : Recorder) :
    SlotsOnly r.li (r.evaluate x z causes).li :=
  Recorder.foldl_slots _ (Recorder.absent_slots x causes) gapCauses
    { r with gr := gapCauses.foldl (Gr.present z causes) r.gr }

theorem Recorder.drain_slots (x : Side) (r : Recorder) : SlotsOnly r.li (r.drain x).li :=
  Recorder.foldl_slots _ (Recorder.closeGap_slots x true) _ _

theorem Internal.ofRecorder (s : State) (x : Side) (r : Recorder) (h : SlotsOnly s.li r.li) :
    Internal s (s.setRecorder x r) :=
  ⟨rfl, rfl, rfl, rfl, ⟨_, rfl, .inl rfl⟩, fun _ => ⟨_, _, rfl⟩, rfl, rfl, rfl, h.rate, h.receiver, h.held, h.latches,
    h.reply, h.sequence, h.tx, h.holdIn, rfl⟩

theorem drainGaps_internal (x : Side) (s : State) : Internal s (drainGaps x s) :=
  Internal.ofRecorder _ _ _ (Recorder.drain_slots x (s.recorder x))

theorem Internal.ofFree (s : State) (n : Nat) : Internal s { s with free := n } :=
  ⟨rfl, rfl, rfl, rfl, ⟨_, rfl, .inl rfl⟩, fun _ => ⟨_, _, rfl⟩, rfl, rfl, rfl, rfl, rfl, rfl, rfl, rfl, rfl, rfl, rfl, rfl⟩

theorem drainBothGaps_internal (s : State) : Internal s (drainBothGaps s) := by
  unfold drainBothGaps
  split
  · split
    · exact ((drainGaps_internal .a s).trans (drainGaps_internal .b _)).trans (Internal.ofFree _ _)
    · exact ((drainGaps_internal .b s).trans (drainGaps_internal .a _)).trans (Internal.ofFree _ _)
  · exact (drainGaps_internal .a s).trans (drainGaps_internal .b _)

/-! ## The tracker -/

/-- What closures, formation and release leave: the settings, the zones, the offset and the verdicts, and of the link
everything but slots. -/
structure TableOnly (k m : Track) : Prop where
  settings : m.it.settings = k.it.settings
  zones : m.it.zones = k.it.zones
  offset : m.it.offset = k.it.offset
  verdicts : m.it.verdicts = k.it.verdicts
  li : SlotsOnly k.li m.li

theorem TableOnly.refl (k : Track) : TableOnly k k := ⟨rfl, rfl, rfl, rfl, .refl _⟩

theorem TableOnly.trans {k m n : Track} (h : TableOnly k m) (j : TableOnly m n) : TableOnly k n :=
  ⟨j.settings.trans h.settings, j.zones.trans h.zones, j.offset.trans h.offset, j.verdicts.trans h.verdicts,
    h.li.trans j.li⟩

theorem TableOnly.foldl {α : Type} (g : Track → α → Track) (h : ∀ k a, TableOnly k (g k a)) :
    ∀ (l : List α) (k : Track), TableOnly k (l.foldl g k)
  | [], k => .refl k
  | a :: l, k => (h k a).trans (TableOnly.foldl g h l (g k a))

/-- Two trackers that differ in their tables alone. -/
structure SameButTable (t u : It) : Prop where
  settings : u.settings = t.settings
  zones : u.zones = t.zones
  offset : u.offset = t.offset
  verdicts : u.verdicts = t.verdicts

theorem SameButTable.refl (t : It) : SameButTable t t := ⟨rfl, rfl, rfl, rfl⟩

theorem SameButTable.trans {t u v : It} (h : SameButTable t u) (k : SameButTable u v) : SameButTable t v :=
  ⟨k.settings.trans h.settings, k.zones.trans h.zones, k.offset.trans h.offset, k.verdicts.trans h.verdicts⟩

theorem SameButTable.track {k : Track} {t : It} (h : SameButTable k.it t) : TableOnly k { k with it := t } :=
  ⟨h.settings, h.zones, h.offset, h.verdicts, .refl _⟩

theorem It.setEntry_same (t : It) (i : Fin 64) (e : TableEntry) : SameButTable t (t.setEntry i e) :=
  ⟨rfl, rfl, rfl, rfl⟩

theorem It.mapTable_same (t : It) (f : Fin 64 → TableEntry → TableEntry) : SameButTable t (t.mapTable f) := by
  unfold It.mapTable; exact ⟨rfl, rfl, rfl, rfl⟩

theorem It.setCluster_same (t : It) (h : Fin 64) (c : Cluster) : SameButTable t (t.setCluster h c) := by
  unfold It.setCluster; split
  · exact It.setEntry_same _ _ _
  · exact .refl t
  · exact .refl t

theorem It.join_same (t : It) (j : Fin 64) (ind : Indication) (h : Fin 64) (c : Cluster) :
    SameButTable t (t.join j ind h c) := (It.setEntry_same t _ _).trans (It.setCluster_same _ _ _)

theorem It.regroup_same (h : Fin 64) : ∀ (cs : List (Fin 64 × Cluster)) (b : Nat) (t : It),
    SameButTable t (It.regroup h cs b t)
  | [], _, t => .refl t
  | (_, _) :: cs, _, t => (It.mapTable_same t _).trans (It.regroup_same h cs _ _)

theorem It.merge_same (t : It) (j : Fin 64) (ind : Indication) (h : Fin 64) (cs : List (Fin 64 × Cluster)) :
    SameButTable t (t.merge j ind h cs) :=
  ((It.regroup_same h cs 0 t).trans (It.setEntry_same _ _ _)).trans (It.setCluster_same _ _ _)

theorem Track.release_tableOnly (hwm : Int) (h : Fin 64) (ind : Indication) (c : Cluster) (k : Track) :
    TableOnly k (k.release hwm h ind c) := by
  unfold Track.release
  have h1 := It.mapTable_same k.it (fun i e => if i = h || e.memberOf h then .free else e)
  exact ⟨h1.settings, h1.zones, h1.offset, h1.verdicts, Li.appendFlaw_slots _ _⟩

theorem Track.releaseFront_tableOnly (hwm : Int) (k : Track) : TableOnly k (k.releaseFront hwm) := by
  unfold Track.releaseFront
  split
  · exact .refl k
  · split
    · exact Track.release_tableOnly _ _ _ _ _
    · exact .refl k

theorem Track.releaseLoop_tableOnly (hwm : Int) : ∀ (n : Nat) (k : Track), TableOnly k (k.releaseLoop hwm n)
  | 0, k => .refl k
  | n + 1, k => (Track.releaseFront_tableOnly hwm k).trans (Track.releaseLoop_tableOnly hwm n _)

theorem Track.startCluster_tableOnly (hwm : Int) (j : Fin 64) (ind : Indication) (k : Track) :
    TableOnly k (k.startCluster hwm j ind) := by
  unfold Track.startCluster
  dsimp only
  split
  · exact (SameButTable.track (It.setEntry_same _ _ _)).trans (Track.releaseLoop_tableOnly _ _ _)
  · exact SameButTable.track (It.setEntry_same _ _ _)

theorem Track.form_tableOnly (hwm : Int) (j : Fin 64) (ind : Indication) (k : Track) :
    TableOnly k (k.form hwm j ind) := by
  unfold Track.form
  split
  · exact Track.startCluster_tableOnly _ _ _ _
  · split
    · exact SameButTable.track (It.join_same _ _ _ _ _)
    · exact Track.startCluster_tableOnly _ _ _ _
  · split
    · exact SameButTable.track (It.merge_same _ _ _ _ _)
    · split
      · exact SameButTable.track (It.join_same _ _ _ _ _)
      · exact Track.startCluster_tableOnly _ _ _ _

theorem Track.close_tableOnly (hwm : Int) (i : Fin 64) (ind : Indication) (k : Track) :
    TableOnly k (k.close hwm i ind) := by
  unfold Track.close
  split
  · exact SameButTable.track (It.setEntry_same _ _ _)
  · exact Track.form_tableOnly _ _ _ _

theorem Track.closeTest_tableOnly (hwm : Int) (x : Side) (z : Int) (k : Track) (i : Fin 64) :
    TableOnly k (Track.closeTest hwm x z k i) := by
  unfold Track.closeTest
  repeat' split
  all_goals first | exact .refl k | exact Track.close_tableOnly _ _ _ _

theorem Track.closeAll_tableOnly (hwm : Int) (m : IndicationFlags → IndicationFlags) (k : Track) :
    TableOnly k (k.closeAll hwm m) := by
  refine TableOnly.foldl _ (fun k i => ?_) _ k
  unfold Track.closeWith
  split
  · exact Track.close_tableOnly _ _ _ _
  · exact .refl k
  · exact .refl k

theorem It.applyGate_same (t : It) (c : EvalContext) (e : OutcomeEntry) (g : Nat) :
    SameButTable t (t.applyGate c e g).1 := by
  unfold It.applyGate
  repeat' split
  all_goals first | exact .refl t | exact It.setEntry_same _ _ _

theorem It.applyGates_same (c : EvalContext) (e : OutcomeEntry) : ∀ (gs : List Nat) (p : It × Mask),
    SameButTable p.1 (It.applyGates c e gs p).1
  | [], p => .refl p.1
  | g :: gs, (t, m) => by
    unfold It.applyGates
    exact (It.applyGate_same t c e g).trans (It.applyGates_same c e gs (_, _))

theorem It.applyEntries_same (c : EvalContext) (l : ShotList) : ∀ (es : List OutcomeEntry) (p : It × Mask),
    SameButTable p.1 (It.applyEntries c l es p).1
  | [], p => .refl p.1
  | e :: es, p => by
    unfold It.applyEntries
    exact (It.applyGates_same c e _ p).trans (It.applyEntries_same c l es _)

theorem Track.evaluate_tableOnly (hwm : Int) (c : EvalContext) (l : ShotList) (es : List OutcomeEntry) (k : Track) :
    TableOnly k (k.evaluate hwm c l es).1 := by
  unfold Track.evaluate
  dsimp only
  generalize allEntries = entries
  exact (SameButTable.track (It.applyEntries_same c l es (k.it, 0))).trans
    (TableOnly.foldl _ (fun k i => Track.closeTest_tableOnly hwm c.side c.step k i) entries _)

theorem Internal.ofTrack (s : State) (k : Track) (h : TableOnly s.track k) : Internal s (s.setTrack k) :=
  ⟨rfl, rfl, rfl, rfl, ⟨_, rfl, .inl rfl⟩, fun _ => ⟨_, _, rfl⟩, h.settings, h.zones, h.offset, h.li.rate, h.li.receiver,
    h.li.held, h.li.latches, h.li.reply, h.li.sequence, h.li.tx, h.li.holdIn, rfl⟩

theorem releaseClusters_internal (s : State) : Internal s (releaseClusters s) :=
  Internal.ofTrack _ _ (Track.releaseLoop_tableOnly _ _ _)

/-! ## The drain -/

theorem drainEnd_internal (s : State) : Internal s (drainEnd s) := by
  have h1 := drainBothGaps_internal s
  have h2 : Internal s ((drainBothGaps s).setRc { (drainBothGaps s).rc with run := .idle, drain := .none }) :=
    h1.trans (Internal.ofRc _ _ rfl)
  unfold drainEnd
  dsimp only
  split
  · exact ((h2.trans (swapPlans_internal _)).trans (recordsTakeEffect_internal _)).trans (placeRunstate_internal _ _ _)
  · exact (h2.trans (recordsTakeEffect_internal _)).trans (placeRunstate_internal _ _ _)

theorem drainEndTest_internal (s : State) : Internal s (drainEndTest s) := by
  unfold drainEndTest; split
  · exact drainEnd_internal s
  · exact .refl s

theorem Internal.ofIt (s : State) (t : It) (h : SameButTable s.it t) : Internal s { s with it := t } :=
  ⟨rfl, rfl, rfl, rfl, ⟨_, rfl, .inl rfl⟩, fun _ => ⟨_, _, rfl⟩, h.settings, h.zones, h.offset, rfl, rfl, rfl, rfl, rfl,
    rfl, rfl, rfl, rfl⟩

theorem It.sealForced_same (t : It) : SameButTable t t.sealForced := by
  unfold It.sealForced; exact It.mapTable_same _ _

theorem It.sealDue_same (t : It) (hwm : Int) : SameButTable t (t.sealDue hwm) := by
  unfold It.sealDue; exact It.mapTable_same _ _

theorem forcedRelease_internal (s : State) : Internal s (forcedRelease s) := by
  unfold forcedRelease
  exact (Internal.ofIt s _ (It.sealForced_same _)).trans (releaseClusters_internal _)

theorem releasePhase_internal (s : State) : Internal s (releasePhase s) := by
  have h1 : Internal s (s.setRc { s.rc with drain := .release }) := Internal.ofRc _ _ rfl
  have h2 := h1.trans (Internal.ofTrack _ _ (Track.closeAll_tableOnly
    (s.setRc { s.rc with drain := .release }).du.hwm markTruncated _))
  exact (h2.trans (forcedRelease_internal _)).trans (drainEndTest_internal _)

theorem drainTest_internal (s : State) : Internal s (drainTest s) := by
  unfold drainTest; split
  · exact releasePhase_internal s
  · exact .refl s

theorem beginStop_internal (c : StopCause) (s : State) : Internal s (beginStop c s) := by
  unfold beginStop; split
  · exact ((Internal.ofRc s { s.rc with run := .stopping, cause := c, drain := .lists } rfl).trans
      (placeRunstate_internal _ _ _)).trans (drainTest_internal _)
  · exact .refl s

/-! ## Events -/

theorem raiseSide_internal (x : Side) (e : SideEvent) (s : State) : Internal s (raiseSide x e s) := by
  unfold raiseSide dispose
  split
  · exact .refl s
  · exact Internal.ofSlots _ _ (Li.placeSide_slots _ _ _ _)
  · exact Internal.ofSlots _ _ (Li.placeSide_slots _ _ _ _)
  · exact (Internal.ofSlots _ _ (Li.placeSide_slots _ _ _ _)).trans (beginStop_internal _ _)

theorem raiseCoupling_internal (x : Side) (e : SideEvent) (ch : Channel) (s : State) :
    Internal s (raiseCoupling x e ch s) := by
  unfold raiseCoupling dispose
  split
  · exact .refl s
  · exact Internal.ofSlots _ _ (Li.placeCoupling_slots _ _ _ _)
  · exact Internal.ofSlots _ _ (Li.placeCoupling_slots _ _ _ _)
  · exact (Internal.ofSlots _ _ (Li.placeCoupling_slots _ _ _ _)).trans (beginStop_internal _ _)

theorem couplingResult_internal (x : Side) (ch : Channel) (good : Bool) (s : State) :
    Internal s (couplingResult x ch good s) := by
  unfold couplingResult
  dsimp only
  split
  · exact Internal.ofCs _ _ _
  · exact (Internal.ofCs _ _ _).trans (raiseCoupling_internal _ _ _ _)

/-! ## The engine -/

theorem stepEvaluation_internal (x : Side) (s : State) : Internal s (stepEvaluation x s) := by
  unfold stepEvaluation
  split
  · exact .refl s
  · rename_i r rest _
    dsimp only
    have h := Track.evaluate_tableOnly s.du.hwm ⟨x, r.step, s.ps.generation, s.nextVerdict x r.step⟩
      (s.ps.active.get x) r.entries s.track
    generalize Track.evaluate _ _ _ _ _ = k at h ⊢
    have h1 : ∀ v, Internal s (s.setTrack ⟨{ k.1.it with verdicts := v }, k.1.li⟩) := fun v =>
      ⟨rfl, rfl, rfl, rfl, ⟨_, rfl, .inl rfl⟩, fun _ => ⟨_, _, rfl⟩, h.settings, h.zones, h.offset, h.li.rate,
        h.li.receiver, h.li.held, h.li.latches, h.li.reply, h.li.sequence, h.li.tx, h.li.holdIn, rfl⟩
    refine Internal.trans (Internal.trans (h1 (k.1.it.verdicts.set x (k.1.it.verdicts.get x).tail)) ?_)
      (Internal.ofSe _ _ _)
    generalize s.setTrack _ = u
    exact Internal.ofRecorder u x _ (Recorder.evaluate_slots _ _ _ (u.recorder x))

theorem evaluateTimes_internal (x : Side) : ∀ (n : Nat) (s : State), Internal s (evaluateTimes x n s)
  | 0, s => .refl s
  | n + 1, s => (stepEvaluation_internal x s).trans (evaluateTimes_internal x n _)

theorem evaluateFinished_internal (x : Side) (s : State) : Internal s (evaluateFinished x s) :=
  (evaluateTimes_internal x _ s).trans (drainTest_internal _)

theorem endOfList_internal (x : Side) (s : State) : Internal s (endOfList x s) := by
  unfold endOfList; split
  · exact .refl s
  · exact (Internal.ofSe _ _ _).trans (evaluateFinished_internal _ _)

theorem reachShots_internal (x : Side) : ∀ (l : List Nat) (s : State), Internal s (reachShots x l s)
  | [], s => endOfList_internal x s
  | i :: l, s => by
    unfold reachShots
    split
    · exact (Internal.ofFiring _ _ _).trans (reachShots_internal x l _)
    · split
      · exact (Internal.ofFiring _ _ _).trans (reachShots_internal x l _)
      · split
        · exact Internal.ofFiring _ _ _
        · exact (Internal.ofFiring _ _ _).trans (reachShots_internal x l _)

theorem engineBoundary_internal (x : Side) (z : Int) (s : State) : Internal s (engineBoundary x z s) := by
  unfold engineBoundary
  dsimp only
  split
  · exact Internal.ofFiring _ _ _
  · split
    · exact (Internal.ofSe _ _ _).trans (evaluateFinished_internal _ _)
    · exact (Internal.ofSe _ _ _).trans (reachShots_internal _ _ _)

theorem abortList_internal (x : Side) (s : State) : Internal s (abortList x s) := by
  unfold abortList; split
  · exact .refl s
  · exact (Internal.ofFiring _ _ _).trans (endOfList_internal _ _)

theorem notifyDeparture_internal (x : Side) (was : SideState) (s : State) : Internal s (notifyDeparture x was s) := by
  unfold notifyDeparture; split
  · exact abortList_internal x s
  · exact .refl s

theorem planSwapAtBoundary_internal (s : State) : Internal s (planSwapAtBoundary s) := by
  unfold planSwapAtBoundary
  split
  · exact .refl s
  · split
    · exact ((swapPlans_internal s).trans (Internal.ofTrack _ _ (Track.closeAll_tableOnly _ _ _))).trans
        (placeRunstate_internal _ _ _)
    · exact .refl s

end Sys2Proof.Machine
end

