-- ==== Sys2Proof/Laws/Tracker.lean ====
section
/-! SUPPORT. What the operations of the Indication Table do, one lemma for each: reading an entry after an update, the
OPEN indication of a key, claims, heads, the front of the release line, candidates, formation, merging and release. -/
namespace Sys2Proof.Machine

/-! ## One entry after an update -/

theorem It.setEntry_get (t : It) (i j : Fin 64) (e : TableEntry) :
    (t.setEntry i e).table[j] = if j = i then e else t.table[j] := by
  simp only [It.setEntry, Fin.getElem_fin, Vector.getElem_set]
  by_cases h : i = j
  · subst h; simp
  · have : ¬ (i.val = j.val) := fun e => h (Fin.ext e)
    rw [if_neg this, if_neg (fun e => h e.symm)]

theorem It.mapTable_get (t : It) (f : Fin 64 → TableEntry → TableEntry) (j : Fin 64) :
    (t.mapTable f).table[j] = f j t.table[j] := by
  simp [It.mapTable]

/-- Two tables that agree at every entry are equal. -/
theorem It.table_ext {v w : Vector TableEntry 64} (h : ∀ i : Fin 64, v[i] = w[i]) : v = w := by
  apply Vector.ext
  intro i hi
  exact h ⟨i, hi⟩

theorem mem_allEntries (i : Fin 64) : i ∈ allEntries := List.mem_finRange i

/-- The entries in their order. -/
theorem allEntries_ascending : allEntries.Pairwise (· < ·) := by
  unfold allEntries
  exact List.pairwise_lt_finRange 64

/-! ## The OPEN indication of a key, and claims -/

/-- The first entry that answers a test. -/
theorem findSome?_allEntries {β : Type} {f : Fin 64 → Option β} :
    allEntries.findSome? f = none ↔ ∀ i, f i = none := by
  rw [List.findSome?_eq_none_iff]
  exact ⟨fun h i => h i (mem_allEntries i), fun h i _ => h i⟩

/-- R105: what is found is OPEN and of the key. -/
theorem It.findOpen_some {t : It} {x : Side} {shot gate : Nat} {i : Fin 64} {a : Indication} {n : Nat}
    (h : t.findOpen x shot gate = some (i, a, n)) :
    t.table[i] = .opened a n ∧ a.side = x ∧ a.shot = shot ∧ a.gate = gate := by
  obtain ⟨j, _, hj⟩ := List.exists_of_findSome?_eq_some h
  split at hj
  · rename_i b m he
    split at hj
    · rename_i hk
      cases hj
      simp only [Bool.and_eq_true, decide_eq_true_eq] at hk
      exact ⟨he, hk.1.1, hk.1.2, hk.2⟩
    · cases hj
  · cases hj
  · cases hj

/-- R105: nothing is found exactly when no OPEN indication has the key. -/
theorem It.findOpen_none {t : It} {x : Side} {shot gate : Nat} :
    t.findOpen x shot gate = none ↔
      ∀ (i : Fin 64) (a : Indication) (n : Nat), t.table[i] = .opened a n →
        ¬(a.side = x ∧ a.shot = shot ∧ a.gate = gate) := by
  unfold It.findOpen
  rw [findSome?_allEntries]
  constructor
  · intro h i a n he hk
    have := h i
    rw [he] at this
    simp [hk.1, hk.2.1, hk.2.2] at this
  · intro h i
    split
    · rename_i a n he
      have := h i a n he
      rw [if_neg]
      intro hk
      simp only [Bool.and_eq_true, decide_eq_true_eq] at hk
      exact this ⟨hk.1.1, hk.1.2, hk.2⟩
    · rfl
    · rfl

/-- The first element of an ascending list that meets a test is the least one. -/
theorem find?_ascending {n : Nat} {f : Fin n → Bool} {i : Fin n} :
    (List.finRange n).find? f = some i ↔ f i = true ∧ ∀ j, j < i → f j = false := by
  rw [List.find?_eq_some_iff_append]
  constructor
  · rintro ⟨hi, as, bs, hl, ha⟩
    refine ⟨hi, fun j hj => ?_⟩
    have hmem : j ∈ as ++ i :: bs := hl ▸ List.mem_finRange j
    have hp : (as ++ i :: bs).Pairwise (· < ·) := hl ▸ List.pairwise_lt_finRange n
    rcases List.mem_append.1 hmem with h | h
    · simpa using ha j h
    · rcases List.mem_cons.1 h with rfl | h
      · exact absurd hj (Fin.lt_irrefl _)
      · have := (List.pairwise_append.1 hp).2.1
        have := (List.pairwise_cons.1 this).1 j h
        exact absurd (Fin.lt_trans hj this) (Fin.lt_irrefl _)
  · rintro ⟨hi, hj⟩
    refine ⟨hi, ?_⟩
    obtain ⟨as, bs, h⟩ := List.append_of_mem (List.mem_finRange i)
    refine ⟨as, bs, h, fun j hja => ?_⟩
    have hp : (as ++ i :: bs).Pairwise (· < ·) := h ▸ List.pairwise_lt_finRange n
    have := (List.pairwise_append.1 hp).2.2 j hja i List.mem_cons_self
    simp [hj j this]

/-- R106: the entry a claim takes. -/
theorem It.claim_some {t : It} {x : Side} {i : Fin 64} :
    t.claim x = some i ↔ t.usedBy x < t.settings.cap.get x ∧ t.table[i] = .free ∧
      ∀ j : Fin 64, j < i → t.table[j] ≠ .free := by
  unfold It.claim allEntries
  split
  · rename_i h
    rw [find?_ascending]
    simp only [decide_eq_true_eq, decide_eq_false_iff_not]
    exact ⟨fun k => ⟨h, k⟩, fun k => k.2⟩
  · rename_i h
    exact ⟨fun k => (nomatch k), fun k => absurd k.1 h⟩

/-- R106: when a claim is refused. -/
theorem It.claim_none {t : It} {x : Side} :
    t.claim x = none ↔ t.settings.cap.get x ≤ t.usedBy x ∨ ∀ i : Fin 64, t.table[i] ≠ .free := by
  unfold It.claim
  split
  · rename_i h
    rw [List.find?_eq_none]
    constructor
    · intro k
      exact .inr (fun i => by simpa using k i (mem_allEntries i))
    · rintro (k | k)
      · exact absurd k (Nat.not_le.2 h)
      · intro i _
        simpa using k i
  · rename_i h
    exact ⟨fun _ => .inl (Nat.not_lt.1 h), fun _ => rfl⟩

/-! ## A step evaluation -/

/-- R108: the class of a gate of a shot that was skipped or whose coupling was bad. -/
theorem gateClass_skipped {z : ZoneOutcome} {e : OutcomeEntry} {g : Nat} (hz : z ≠ .masked)
    (h : (∃ c, e.outcome = .skipped c) ∨ ∃ rs, e.outcome = .completed true rs) : gateClass z e g = .skipped := by
  unfold gateClass
  rw [if_neg hz]
  rcases h with ⟨c, hc⟩ | ⟨rs, hc⟩ <;> rw [hc]

/-- R108: a HIT of a completed shot. -/
theorem gateClass_hit {z : ZoneOutcome} {e : OutcomeEntry} {g : Nat} {rs : List DetectResult} {m : Measurement}
    (hz : z ≠ .masked) (h : e.outcome = .completed false rs)
    (hr : (rs.find? (fun r => r.gate = g)).map (fun r => r.kind) = some (.hit m)) : gateClass z e g = .hit m := by
  unfold gateClass
  rw [if_neg hz, h]
  cases hx : rs.find? (fun r => r.gate = g) with
  | none => simp [hx] at hr
  | some r =>
    rcases r with ⟨n, k⟩
    simp [hx] at hr
    subst hr
    simp [hx]

/-- R108: any other gate of a completed shot. -/
theorem gateClass_miss {z : ZoneOutcome} {e : OutcomeEntry} {g : Nat} {rs : List DetectResult}
    (hz : z ≠ .masked) (h : e.outcome = .completed false rs)
    (hr : ∀ m, (rs.find? (fun r => r.gate = g)).map (fun r => r.kind) ≠ some (.hit m)) : gateClass z e g = .miss := by
  unfold gateClass
  rw [if_neg hz, h]
  cases hx : rs.find? (fun r => r.gate = g) with
  | none => simp [hx]
  | some r =>
    rcases r with ⟨n, k⟩
    cases k with
    | hit m => exact absurd (by simp [hx]) (hr m)
    | miss m => simp [hx]
    | unevaluated => simp [hx]

/-- R106: the entries in use by a side. -/
theorem It.usedBy_eq (t : It) (x : Side) : t.usedBy x = ((List.finRange 64).filter (fun i => match t.table[i] with
    | .free => false
    | .opened a _ => a.side = x
    | .held a _ => a.side = x)).length := by
  unfold It.usedBy It.count allEntries
  rw [List.countP_eq_length_filter]
  congr 1
  apply List.filter_congr
  intro i _
  cases h : t.table[i] <;> simp [TableEntry.side?]

/-- R108: the gates of an entry, one after another. -/
theorem It.applyGates_eq (c : EvalContext) (e : OutcomeEntry) : ∀ (gs : List Nat) (p : It × Mask),
    It.applyGates c e gs p = gs.foldl (fun p g =>
      ((p.1.applyGate c e g).1, if (p.1.applyGate c e g).2 then p.2 ||| e.channels else p.2)) p
  | [], _ => rfl
  | g :: gs, (t, full) => by
    rw [It.applyGates, It.applyGates_eq c e gs, List.foldl_cons]

/-- R108: the entries of a record, one after another. -/
theorem It.applyEntries_eq (c : EvalContext) (l : ShotList) : ∀ (es : List OutcomeEntry) (p : It × Mask),
    It.applyEntries c l es p = (es.flatMap (fun e => (l.detectGates e.shot).map (fun g => (e, g)))).foldl (fun p q =>
      ((p.1.applyGate c q.1 q.2).1, if (p.1.applyGate c q.1 q.2).2 then p.2 ||| q.1.channels else p.2)) p
  | [], _ => rfl
  | e :: es, p => by
    rw [It.applyEntries, It.applyEntries_eq c l es, List.flatMap_cons, List.foldl_append, It.applyGates_eq,
      List.foldl_map]

/-! ## Heads -/

/-- R128: the heads are the HELD entries with cluster fields. -/
theorem It.mem_heads {t : It} {h : Fin 64} {a : Indication} {c : Cluster} :
    (h, a, c) ∈ t.heads ↔ ∃ g o, t.table[h] = .held a ⟨g, o, some c⟩ := by
  unfold It.heads
  rw [List.mem_filterMap]
  constructor
  · rintro ⟨i, _, hi⟩
    split at hi
    · rename_i ind g o c' he
      cases hi
      exact ⟨g, o, he⟩
    all_goals cases hi
  · rintro ⟨g, o, he⟩
    refine ⟨h, mem_allEntries h, ?_⟩
    rw [he]

/-- A filterMap that keeps the element as its first component keeps the order. -/
theorem filterMap_ascending {β : Type} {f : Fin 64 → Option (Fin 64 × β)} (hf : ∀ i q, f i = some q → q.1 = i) :
    ∀ {l : List (Fin 64)}, l.Pairwise (· < ·) → (l.filterMap f).Pairwise (fun p q => p.1 < q.1)
  | [], _ => List.Pairwise.nil
  | i :: l, h => by
    obtain ⟨h1, h2⟩ := List.pairwise_cons.1 h
    have ih := filterMap_ascending hf h2
    cases hi : f i with
    | none => rw [List.filterMap_cons_none hi]; exact ih
    | some q =>
      rw [List.filterMap_cons_some hi]
      refine List.Pairwise.cons (fun p hp => ?_) ih
      obtain ⟨j, hj, hfj⟩ := List.mem_filterMap.1 hp
      rw [hf i q hi, hf j p hfj]
      exact h1 j hj

/-- The heads ascend. -/
theorem It.heads_ascending (t : It) : t.heads.Pairwise (fun p q => p.1 < q.1) := by
  unfold It.heads
  refine filterMap_ascending (fun i q hq => ?_) allEntries_ascending
  split at hq
  · cases hq; rfl
  all_goals cases hq

/-! ## The front of the release line -/

/-- One head taken into account for the front. -/
def frontStep (best : Option (Fin 64 × Indication × Cluster)) (q : Fin 64 × Indication × Cluster) :
    Option (Fin 64 × Indication × Cluster) :=
  match best with
  | none => some q
  | some b => if q.2.2.release < b.2.2.release then some q else some b

/-- The front of an ascending list of heads has the least release step, and among equals the least head. -/
theorem frontStep_foldl : ∀ (l : List (Fin 64 × Indication × Cluster)) (b : Fin 64 × Indication × Cluster),
    l.Pairwise (fun p q => p.1 < q.1) → (∀ q ∈ l, b.1 < q.1) →
    ∃ m, l.foldl frontStep (some b) = some m ∧ (m = b ∨ m ∈ l) ∧
      ∀ q, (q = b ∨ q ∈ l) → m.2.2.release < q.2.2.release ∨ (m.2.2.release = q.2.2.release ∧ m.1 ≤ q.1)
  | [], b, _, _ => ⟨b, rfl, .inl rfl, fun q hq => by
      rcases hq with rfl | hq
      · exact .inr ⟨rfl, Fin.le_refl _⟩
      · cases hq⟩
  | p :: l, b, hl, hb => by
    obtain ⟨h1, h2⟩ := List.pairwise_cons.1 hl
    have hbp := hb p List.mem_cons_self
    rw [List.foldl_cons]
    by_cases hr : p.2.2.release < b.2.2.release
    · rw [show frontStep (some b) p = some p from by simp [frontStep, hr]]
      obtain ⟨m, hm, hmem, hmin⟩ := frontStep_foldl l p h2 h1
      refine ⟨m, hm, .inr ?_, fun q hq => ?_⟩
      · rcases hmem with rfl | hm'
        · exact List.mem_cons_self
        · exact List.mem_cons_of_mem _ hm'
      · rcases hq with rfl | hq
        · rcases hmin p (.inl rfl) with h | ⟨h, _⟩ <;> (left; omega)
        · rcases List.mem_cons.1 hq with rfl | hq
          · exact hmin _ (.inl rfl)
          · exact hmin _ (.inr hq)
    · rw [show frontStep (some b) p = some b from by simp [frontStep, hr]]
      obtain ⟨m, hm, hmem, hmin⟩ := frontStep_foldl l b h2 (fun q hq => Fin.lt_trans hbp (h1 q hq))
      refine ⟨m, hm, ?_, fun q hq => ?_⟩
      · rcases hmem with rfl | hm'
        · exact .inl rfl
        · exact .inr (List.mem_cons_of_mem _ hm')
      · rcases hq with rfl | hq
        · exact hmin _ (.inl rfl)
        · rcases List.mem_cons.1 hq with rfl | hq
          · rcases hmin b (.inl rfl) with h | ⟨h, h'⟩
            · left; omega
            · rcases Int.lt_or_eq_of_le (Int.not_lt.1 hr) with h'' | h''
              · left; omega
              · right; exact ⟨by omega, Fin.le_of_lt (Fin.lt_of_le_of_lt h' hbp)⟩
          · exact hmin _ (.inr hq)

theorem It.front_eq (t : It) :
    t.front = (t.heads.filter (fun q => q.2.2.sealedAs.isSome)).foldl frontStep none := rfl

/-- R134: an empty release line. -/
theorem It.front_none {t : It} : t.front = none ↔ ∀ q ∈ t.heads, q.2.2.sealedAs = none := by
  rw [It.front_eq]
  cases hl : t.heads.filter (fun q => q.2.2.sealedAs.isSome) with
  | nil =>
    rw [List.filter_eq_nil_iff] at hl
    refine ⟨fun _ q hq => ?_, fun _ => rfl⟩
    simpa using hl q hq
  | cons p l =>
    have hp : p ∈ t.heads.filter (fun q => q.2.2.sealedAs.isSome) := hl ▸ List.mem_cons_self
    have hs := (hl ▸ t.heads_ascending.filter _ : (p :: l).Pairwise (fun p q => p.1 < q.1))
    obtain ⟨h1, h2⟩ := List.pairwise_cons.1 hs
    obtain ⟨m, hm, _⟩ := frontStep_foldl l p h2 h1
    have hne : (p :: l).foldl frontStep none = some m := hm
    rw [hne]
    refine ⟨fun h => (nomatch h), fun h => ?_⟩
    obtain ⟨hp1, hp2⟩ := List.mem_filter.1 hp
    rw [h p hp1] at hp2
    cases hp2

/-- R134: the front of the release line. -/
theorem It.front_some {t : It} {h : Fin 64} {a : Indication} {c : Cluster} (hf : t.front = some (h, a, c)) :
    (h, a, c) ∈ t.heads ∧ c.sealedAs.isSome = true ∧ ∀ q ∈ t.heads, q.2.2.sealedAs.isSome = true →
      c.release < q.2.2.release ∨ (c.release = q.2.2.release ∧ h ≤ q.1) := by
  rw [It.front_eq] at hf
  cases hl : t.heads.filter (fun q => q.2.2.sealedAs.isSome) with
  | nil => rw [hl] at hf; cases hf
  | cons p l =>
    have hs := (hl ▸ t.heads_ascending.filter _ : (p :: l).Pairwise (fun p q => p.1 < q.1))
    obtain ⟨h1, h2⟩ := List.pairwise_cons.1 hs
    obtain ⟨m, hm, hmem, hmin⟩ := frontStep_foldl l p h2 h1
    rw [hl] at hf
    have hmq : m = (h, a, c) := Option.some.inj (hm.symm.trans hf)
    subst hmq
    have hin : (h, a, c) ∈ t.heads.filter (fun q => q.2.2.sealedAs.isSome) := by
      rw [hl]
      rcases hmem with rfl | hm'
      · exact List.mem_cons_self
      · exact List.mem_cons_of_mem _ hm'
    obtain ⟨hi1, hi2⟩ := List.mem_filter.1 hin
    refine ⟨hi1, hi2, fun q hq hqs => ?_⟩
    have : q ∈ p :: l := hl ▸ List.mem_filter.2 ⟨hq, hqs⟩
    exact hmin q (List.mem_cons.1 this)

/-! ## Candidates -/

/-- R129: whether some member of a cluster is near the joiner. -/
theorem It.anyNear_iff {t : It} {h : Fin 64} {j : Indication} :
    t.anyNear h j = true ↔
      ∃ (e : Fin 64) (a : Indication) (m : Membership), t.table[e] = .held a m ∧ m.head = h ∧ near t.settings.window a j = true := by
  unfold It.anyNear
  rw [List.any_eq_true]
  constructor
  · rintro ⟨e, _, he⟩
    split at he
    · rename_i a m hm
      simp only [Bool.and_eq_true, decide_eq_true_eq] at he
      exact ⟨e, a, m, hm, he.1, he.2⟩
    all_goals cases he
  · rintro ⟨e, a, m, hm, h1, h2⟩
    refine ⟨e, mem_allEntries e, ?_⟩
    rw [hm]
    simp [h1, h2]

/-- R129: the candidates of a joiner. -/
theorem It.mem_candidates {t : It} {j : Indication} {h : Fin 64} {c : Cluster} :
    (h, c) ∈ t.candidates j ↔ ∃ a, (h, a, c) ∈ t.heads ∧ a.side = j.side ∧ a.generation = j.generation ∧
      c.sealedAs = none ∧ t.anyNear h j = true := by
  unfold It.candidates
  rw [List.mem_map]
  constructor
  · rintro ⟨⟨h', a, c'⟩, hq, he⟩
    cases he
    obtain ⟨h1, h2⟩ := List.mem_filter.1 hq
    simp only [Bool.and_eq_true, decide_eq_true_eq] at h2
    exact ⟨a, h1, h2.1.1.1, h2.1.1.2, h2.1.2, h2.2⟩
  · rintro ⟨a, h1, h2, h3, h4, h5⟩
    refine ⟨(h, a, c), List.mem_filter.2 ⟨h1, ?_⟩, rfl⟩
    simp [h2, h3, h4, h5]

/-- The candidates ascend by head. -/
theorem It.candidates_ascending (t : It) (j : Indication) : (t.candidates j).Pairwise (fun p q => p.1 < q.1) := by
  unfold It.candidates
  rw [List.pairwise_map]
  exact t.heads_ascending.filter _

/-! ## Joins and merges -/

/-- Reading an entry after `setCluster`. -/
theorem It.setCluster_get {t : It} {h : Fin 64} {c : Cluster} {a : Indication} {m : Membership}
    (he : t.table[h] = .held a m) (j : Fin 64) :
    (t.setCluster h c).table[j] = if j = h then .held a { m with cluster := some c } else t.table[j] := by
  unfold It.setCluster
  rw [he]
  exact It.setEntry_get _ _ _ _

/-- R131: an entry after a join. -/
theorem It.join_get {t : It} {j h g : Fin 64} {i a : Indication} {o : Nat} {c c' : Cluster} (hj : j ≠ h)
    (he : t.table[h] = .held a ⟨g, o, some c'⟩) (e : Fin 64) :
    (t.join j i h c).table[e] =
      if e = h then .held a ⟨g, o, some ⟨max c.release (i.last + t.settings.window), c.count + 1, none⟩⟩
      else if e = j then .held i ⟨h, c.count + 1, none⟩
      else t.table[e] := by
  unfold It.join
  have hh : (t.setEntry j (.held i ⟨h, c.count + 1, none⟩)).table[h] = .held a ⟨g, o, some c'⟩ := by
    rw [It.setEntry_get, if_neg (Ne.symm hj), he]
  rw [It.setCluster_get hh, It.setEntry_get]

/-- The head under which an entry stands after candidates have been regrouped, and its order. -/
def regrouped (h : Fin 64) : List (Fin 64 × Cluster) → Nat → Membership → Membership
  | [], _, m => m
  | (c, k) :: cs, base, m =>
    regrouped h cs (base + k.count) (if m.head = c then ⟨h, base + m.order, none⟩ else m)

/-- An entry after the regrouping of candidates. -/
theorem It.regroup_get (h : Fin 64) : ∀ (cs : List (Fin 64 × Cluster)) (base : Nat) (t : It) (e : Fin 64),
    (It.regroup h cs base t).table[e] = match t.table[e] with
      | .held a m => .held a (regrouped h cs base m)
      | .free => .free
      | .opened a n => .opened a n
  | [], _, t, e => by
    unfold It.regroup regrouped
    cases t.table[e] <;> rfl
  | (c, k) :: cs, base, t, e => by
    unfold It.regroup
    rw [It.regroup_get h cs, It.mapTable_get]
    cases he : t.table[e] with
    | free => rfl
    | opened a n => rfl
    | held a m =>
      simp only [regrouped]
      by_cases hm : m.head = c
      · simp [hm]
      · simp [hm]

/-- A membership whose head is none of the heads still to come is left. -/
theorem regrouped_of_notMem {h : Fin 64} : ∀ {cs : List (Fin 64 × Cluster)} {base : Nat} {m : Membership},
    (∀ q ∈ cs, m.head ≠ q.1) → regrouped h cs base m = m
  | [], _, _, _ => rfl
  | (c, k) :: cs, base, m, hm => by
    unfold regrouped
    rw [if_neg (hm (c, k) List.mem_cons_self)]
    exact regrouped_of_notMem (fun q hq => hm q (List.mem_cons_of_mem _ hq))

/-- R132: a member of a candidate is numbered on from the candidates before it. -/
theorem regrouped_of_mem {h : Fin 64} : ∀ {before after : List (Fin 64 × Cluster)} {base : Nat} {m : Membership}
    {d : Cluster}, (before ++ (m.head, d) :: after).Pairwise (fun p q => p.1 < q.1) → (∀ q ∈ after, h < q.1) →
    regrouped h (before ++ (m.head, d) :: after) base m = ⟨h, base + countSum before + m.order, none⟩
  | [], after, base, m, d, hp, hh => by
    rw [List.nil_append, regrouped, if_pos rfl]
    rw [regrouped_of_notMem (fun q hq => Fin.ne_of_lt (hh q hq))]
    simp [countSum]
  | (c, k) :: before, after, base, m, d, hp, hh => by
    rw [List.cons_append] at hp ⊢
    obtain ⟨h1, h2⟩ := List.pairwise_cons.1 hp
    have hc : c < m.head := h1 _ (List.mem_append_right _ List.mem_cons_self)
    rw [regrouped, if_neg (Fin.ne_of_gt hc), regrouped_of_mem h2 hh]
    congr 1
    simp [countSum]
    omega

/-- R132: an entry after a merge. -/
theorem It.merge_get {t : It} {j h : Fin 64} {i a : Indication} {o : Nat} {c' : Cluster}
    {cs : List (Fin 64 × Cluster)} {c : Cluster} {rest : List (Fin 64 × Cluster)} (hcs : cs = (h, c) :: rest)
    (hp : cs.Pairwise (fun p q => p.1 < q.1)) (he : t.table[h] = .held a ⟨h, o, some c'⟩) (hj : j ≠ h)
    (e : Fin 64) :
    (t.merge j i h cs).table[e] =
      if e = h then
        .held a ⟨h, o, some ⟨releaseMax cs (i.last + t.settings.window), countSum cs + 1, none⟩⟩
      else if e = j then .held i ⟨h, countSum cs + 1, none⟩
      else match t.table[e] with
        | .held b m => .held b (regrouped h cs 0 m)
        | .free => .free
        | .opened b n => .opened b n := by
  unfold It.merge
  have hr : regrouped h cs 0 ⟨h, o, some c'⟩ = ⟨h, o, none⟩ := by
    subst hcs
    have hh := (List.pairwise_cons.1 hp).1
    have := regrouped_of_mem (h := h) (before := []) (after := rest) (base := 0) (m := ⟨h, o, some c'⟩) (d := c)
      hp hh
    simpa [countSum] using this
  have hh : ((It.regroup h cs 0 t).setEntry j (.held i ⟨h, countSum cs + 1, none⟩)).table[h] =
      .held a ⟨h, o, none⟩ := by
    rw [It.setEntry_get, if_neg (Ne.symm hj), It.regroup_get, he]
    simp only [hr]
  rw [It.setCluster_get hh, It.setEntry_get, It.regroup_get]

/-! ## Release -/

/-- R135: with a free place the front cluster leaves first. -/
theorem Track.releaseFront_some {hwm : Int} {k : Track} {h : Fin 64} {a : Indication} {c : Cluster}
    (hf : k.it.front = some (h, a, c)) (hq : k.li.flawQueue.length < Config.flawPlaces) :
    k.releaseFront hwm = k.release hwm h a c := by
  unfold Track.releaseFront
  rw [hf]
  simp [hq]

/-- R135: with an empty line or a full queue nothing leaves. -/
theorem Track.releaseFront_stuck {hwm : Int} {k : Track}
    (h : k.it.front = none ∨ Config.flawPlaces ≤ k.li.flawQueue.length) : k.releaseFront hwm = k := by
  unfold Track.releaseFront
  split
  · rfl
  · rename_i hf
    rcases h with h | h
    · rw [h] at hf; cases hf
    · rw [if_neg (Nat.not_lt.2 h)]

theorem Track.releaseLoop_stuck {hwm : Int} {k : Track}
    (h : k.it.front = none ∨ Config.flawPlaces ≤ k.li.flawQueue.length) : ∀ n, k.releaseLoop hwm n = k
  | 0 => rfl
  | n + 1 => by rw [Track.releaseLoop, Track.releaseFront_stuck h, Track.releaseLoop_stuck h n]

/-- Once the queue has no free place, or the line is empty, more turns change nothing: 24 turns are enough. -/
theorem Track.releaseLoop_enough {hwm : Int} : ∀ {n m : Nat} {k : Track},
    Config.flawPlaces ≤ k.li.flawQueue.length + n → n ≤ m → k.releaseLoop hwm m = k.releaseLoop hwm n
  | 0, m, k, h, _ => by rw [Track.releaseLoop_stuck (.inr h), Track.releaseLoop_stuck (.inr h)]
  | n + 1, 0, k, _, hm => absurd hm (Nat.not_succ_le_zero n)
  | n + 1, m + 1, k, h, hm => by
    rw [Track.releaseLoop, Track.releaseLoop]
    cases hf : k.it.front with
    | none =>
      rw [Track.releaseFront_stuck (.inl hf), Track.releaseLoop_stuck (.inl hf), Track.releaseLoop_stuck (.inl hf)]
    | some q =>
      by_cases hq : k.li.flawQueue.length < Config.flawPlaces
      · refine Track.releaseLoop_enough ?_ (Nat.le_of_succ_le_succ hm)
        rw [Track.releaseFront_some hf hq]
        simp only [Track.release, Li.appendFlaw, List.length_append, List.length_singleton]
        omega
      · have hs := Nat.not_lt.1 hq
        rw [Track.releaseFront_stuck (.inr hs), Track.releaseLoop_stuck (.inr hs), Track.releaseLoop_stuck (.inr hs)]

/-- R135: all that leaves: the front cluster, and then all that leaves after it. -/
theorem Track.releaseAll_some {hwm : Int} {k : Track} {h : Fin 64} {a : Indication} {c : Cluster}
    (hf : k.it.front = some (h, a, c)) (hq : k.li.flawQueue.length < Config.flawPlaces) :
    k.releaseAll hwm = (k.release hwm h a c).releaseAll hwm := by
  unfold Track.releaseAll
  rw [Track.releaseLoop, Track.releaseFront_some hf hq]
  exact (Track.releaseLoop_enough (n := 63) (m := 64) (by simp [Config.flawPlaces]) (by omega)).symm

/-- R135: nothing leaves. -/
theorem Track.releaseAll_stuck {hwm : Int} {k : Track}
    (h : k.it.front = none ∨ Config.flawPlaces ≤ k.li.flawQueue.length) : k.releaseAll hwm = k :=
  Track.releaseLoop_stuck h 64

/-! ## Sealing -/

/-- R134: an unsealed head. -/
theorem It.sealDue_head {t : It} {hwm : Int} {e g : Fin 64} {a : Indication} {o : Nat} {r : Int} {n : Nat}
    (h : t.table[e] = .held a ⟨g, o, some ⟨r, n, none⟩⟩) :
    (t.sealDue hwm).table[e] = .held a ⟨g, o, some ⟨r, n, if r < hwm then some .due else none⟩⟩ := by
  unfold It.sealDue
  rw [It.mapTable_get, h]
  by_cases hr : r < hwm <;> simp [hr]

/-- R138: an unsealed head. -/
theorem It.sealForced_head {t : It} {e g : Fin 64} {a : Indication} {o : Nat} {r : Int} {n : Nat}
    (h : t.table[e] = .held a ⟨g, o, some ⟨r, n, none⟩⟩) :
    t.sealForced.table[e] = .held a ⟨g, o, some ⟨r, n, some .forced⟩⟩ := by
  unfold It.sealForced
  rw [It.mapTable_get, h]

/-- Sealing leaves every other entry. -/
theorem It.seal_other {t : It} {hwm : Int} {e : Fin 64}
    (h : ∀ (g : Fin 64) (a : Indication) (o : Nat) (r : Int) (n : Nat),
      t.table[e] ≠ .held a ⟨g, o, some ⟨r, n, none⟩⟩) :
    (t.sealDue hwm).table[e] = t.table[e] ∧ t.sealForced.table[e] = t.table[e] := by
  unfold It.sealDue It.sealForced
  rw [It.mapTable_get, It.mapTable_get]
  constructor
  · split
    · rename_i he
      exact absurd he (h _ _ _ _ _)
    · rfl
  · split
    · rename_i he
      exact absurd he (h _ _ _ _ _)
    · rfl

end Sys2Proof.Machine
end

