-- ==== Sys2Proof/Laws/Clusters.lean ====
section
/-! SUPPORT. The FLAW report of a cluster under the cluster law (R128, R139, R140): its members in join order, its first
and last step, and its strongest member. -/
namespace Sys2Proof.Machine

/-- A filterMap that drops nothing. -/
theorem filterMap_total {α β : Type} {f : α → Option β} : ∀ {l : List α}, (∀ a ∈ l, (f a).isSome = true) →
    (l.filterMap f).length = l.length ∧ ∀ (i : Nat) (a : α), l[i]? = some a → (l.filterMap f)[i]? = f a
  | [], _ => ⟨rfl, fun i a h => by simp at h⟩
  | a :: l, h => by
    obtain ⟨h1, h2⟩ := filterMap_total (f := f) (l := l) (fun b hb => h b (List.mem_cons_of_mem _ hb))
    obtain ⟨b, hb⟩ := Option.isSome_iff_exists.1 (h a List.mem_cons_self)
    rw [List.filterMap_cons_some hb]
    refine ⟨by simp [h1], fun i c hc => ?_⟩
    cases i with
    | zero => simp at hc; subst hc; simpa using hb.symm
    | succ i => simpa using h2 i c (by simpa using hc)

/-- R128: what the search for the member of an order finds. -/
theorem It.memberAt_some {t : It} {h : Fin 64} {k : Nat} {e : Fin 64} {a : Indication} {m : Membership}
    (hl : clusterLaw t) (he : t.table[e] = .held a m) (hh : m.head = h) (hk : m.order = k + 1) :
    t.memberAt h k = some a := by
  unfold It.memberAt
  generalize hf : allEntries.findSome? _ = r
  cases r with
  | none =>
    have := findSome?_allEntries.1 hf e
    rw [he] at this
    simp [hh, hk] at this
  | some b =>
    obtain ⟨i, _, hi⟩ := List.exists_of_findSome?_eq_some hf
    split at hi
    · rename_i ind n hin
      split at hi
      · rename_i hc
        simp only [Bool.and_eq_true, decide_eq_true_eq] at hc
        have : i = e := hl.2.1 i e ind a n m hin he (hc.1.trans hh.symm) (hc.2.trans hk.symm)
        subst this
        rw [he] at hin
        cases hin
        exact hi.symm
      · cases hi
    all_goals cases hi

/-- R140: the members of a cluster, each at the place of its join order. -/
theorem It.membersInOrder_spec {t : It} {h : Fin 64} {a : Indication} {o : Nat} {c : Cluster} (hl : clusterLaw t)
    (hh : t.table[h] = .held a ⟨h, o, some c⟩) :
    (t.membersInOrder h c.count).length = c.count ∧
    ∀ (e : Fin 64) (b : Indication) (m : Membership), t.table[e] = .held b m → m.head = h →
      (t.membersInOrder h c.count)[m.order - 1]? = some b := by
  unfold It.membersInOrder
  have htot : ∀ k ∈ List.range c.count, (t.memberAt h k).isSome = true := by
    intro k hk
    obtain ⟨e, b, m, he, hm, ho⟩ := hl.2.2 h a o c hh (k + 1) (by omega) (List.mem_range.1 hk)
    rw [It.memberAt_some hl he hm ho]
    rfl
  obtain ⟨h1, h2⟩ := filterMap_total htot
  refine ⟨by rw [h1, List.length_range], fun e b m he hm => ?_⟩
  obtain ⟨_, b', o', c', hb', _, _, h1', h2', _⟩ := hl.1 e b m he
  subst hm
  rw [hh] at hb'
  cases hb'
  rw [h2 (m.order - 1) (m.order - 1) (by rw [List.getElem?_range (by omega)])]
  exact It.memberAt_some hl he rfl (by omega)

/-- The least value of a fold of minima. -/
theorem foldl_min {α : Type} (f : α → Int) : ∀ (l : List α) (x : Int),
    (l.foldl (fun m i => min m (f i)) x ≤ x ∧ ∀ i ∈ l, l.foldl (fun m i => min m (f i)) x ≤ f i) ∧
    (l.foldl (fun m i => min m (f i)) x = x ∨ ∃ i ∈ l, l.foldl (fun m i => min m (f i)) x = f i)
  | [], x => ⟨⟨Int.le_refl _, fun i h => by cases h⟩, .inl rfl⟩
  | a :: l, x => by
    obtain ⟨⟨h1, h2⟩, h3⟩ := foldl_min f l (min x (f a))
    rw [List.foldl_cons]
    refine ⟨⟨by omega, fun i hi => ?_⟩, ?_⟩
    · rcases List.mem_cons.1 hi with rfl | hi
      · omega
      · exact h2 i hi
    · rcases h3 with h3 | ⟨i, hi, h3⟩
      · rcases Int.le_total x (f a) with hx | hx
        · left; omega
        · right; exact ⟨a, List.mem_cons_self, by omega⟩
      · right; exact ⟨i, List.mem_cons_of_mem _ hi, h3⟩

/-- The greatest value of a fold of maxima. -/
theorem foldl_max {α : Type} (f : α → Int) : ∀ (l : List α) (x : Int),
    (x ≤ l.foldl (fun m i => max m (f i)) x ∧ ∀ i ∈ l, f i ≤ l.foldl (fun m i => max m (f i)) x) ∧
    (l.foldl (fun m i => max m (f i)) x = x ∨ ∃ i ∈ l, l.foldl (fun m i => max m (f i)) x = f i)
  | [], x => ⟨⟨Int.le_refl _, fun i h => by cases h⟩, .inl rfl⟩
  | a :: l, x => by
    obtain ⟨⟨h1, h2⟩, h3⟩ := foldl_max f l (max x (f a))
    rw [List.foldl_cons]
    refine ⟨⟨by omega, fun i hi => ?_⟩, ?_⟩
    · rcases List.mem_cons.1 hi with rfl | hi
      · omega
      · exact h2 i hi
    · rcases h3 with h3 | ⟨i, hi, h3⟩
      · rcases Int.le_total x (f a) with hx | hx
        · right; exact ⟨a, List.mem_cons_self, by omega⟩
        · left; omega
      · right; exact ⟨i, List.mem_cons_of_mem _ hi, h3⟩

/-- R139: the search for the strongest member, with `before` looked at already and `b` the best of them. -/
theorem strongestFrom_spec : ∀ (is before : List Indication) (n : Nat) (b : Indication),
    1 ≤ n → before[n - 1]? = some b →
    (∀ (j : Nat) (d : Indication), before[j]? = some d → d.peak ≤ b.peak ∧ (j + 1 < n → d.peak < b.peak)) →
    ∃ a, 1 ≤ strongestFrom is (before.length + 1) (n, b.peak) ∧
      (before ++ is)[strongestFrom is (before.length + 1) (n, b.peak) - 1]? = some a ∧
      ∀ (j : Nat) (d : Indication), (before ++ is)[j]? = some d →
        d.peak ≤ a.peak ∧ (j + 1 < strongestFrom is (before.length + 1) (n, b.peak) → d.peak < a.peak)
  | [], before, n, b, hn, hb, h => by
    refine ⟨b, hn, by simpa [strongestFrom] using hb, fun j d hd => ?_⟩
    exact h j d (by simpa using hd)
  | i :: is, before, n, b, hn, hb, h => by
    have happ : before ++ i :: is = (before ++ [i]) ++ is := by simp
    have hlen : before.length + 1 + 1 = (before ++ [i]).length + 1 := by simp
    have hnlt : n - 1 < before.length := by
      rcases Nat.lt_or_ge (n - 1) before.length with h' | h'
      · exact h'
      · rw [List.getElem?_eq_none h'] at hb; cases hb
    have split_at : ∀ (j : Nat) (d : Indication), (before ++ [i])[j]? = some d →
        before[j]? = some d ∨ (j = before.length ∧ d = i) := by
      intro j d hd
      rcases Nat.lt_or_ge j before.length with h' | h'
      · rw [List.getElem?_append_left h'] at hd
        exact .inl hd
      · rw [List.getElem?_append_right h'] at hd
        rcases Nat.eq_or_lt_of_le h' with h'' | h''
        · subst h''
          simp at hd
          exact .inr ⟨rfl, hd.symm⟩
        · rw [List.getElem?_eq_none (by simp; omega)] at hd
          cases hd
    rw [strongestFrom, happ, hlen]
    by_cases hp : b.peak < i.peak
    · rw [if_pos hp]
      refine strongestFrom_spec is (before ++ [i]) (before.length + 1) i (by omega) (by simp) (fun j d hd => ?_)
      rcases split_at j d hd with h' | ⟨rfl, rfl⟩
      · have := (h j d h').1
        exact ⟨by omega, fun _ => by omega⟩
      · exact ⟨Nat.le_refl _, fun hlt => absurd hlt (Nat.lt_irrefl _)⟩
    · rw [if_neg hp]
      refine strongestFrom_spec is (before ++ [i]) n b hn ?_ (fun j d hd => ?_)
      · rw [List.getElem?_append_left hnlt]; exact hb
      · rcases split_at j d hd with h' | ⟨rfl, rfl⟩
        · exact h j d h'
        · exact ⟨by omega, fun hlt => by omega⟩

/-- R139: the strongest of a list of members. -/
theorem strongest_spec {i : Indication} {is : List Indication} :
    ∃ a, 1 ≤ strongestFrom is 2 (1, i.peak) ∧ (i :: is)[strongestFrom is 2 (1, i.peak) - 1]? = some a ∧
      ∀ (j : Nat) (d : Indication), (i :: is)[j]? = some d →
        d.peak ≤ a.peak ∧ (j + 1 < strongestFrom is 2 (1, i.peak) → d.peak < a.peak) := by
  have := strongestFrom_spec is [i] 1 i (Nat.le_refl 1) rfl (fun j d hd => by
    cases j with
    | zero => simp at hd; subst hd; exact ⟨Nat.le_refl _, fun h => absurd h (Nat.lt_irrefl _)⟩
    | succ j => simp at hd)
  simpa using this

end Sys2Proof.Machine
end

