-- ==== Sys2Proof/Laws/Engine.lean ====
section
/-! SUPPORT. What the work on a list does, one lemma for each operation: the MOTION trigger, the shots reached in turn,
the end of the list and its abort, and the evaluation of the finished records. -/
namespace Sys2Proof.Machine

/-! ## The MOTION trigger -/

/-- R14: without a trigger only the Distance Unit changes. -/
theorem commitDu_quiet {latch : MotionCauses} {d : Du} {s : State}
    (h : (latch.union ⟨d.motion ≠ s.du.motion, d.fast ≠ s.du.fast, false, false⟩).any = false) :
    commitDu latch d s = s.setDu d := by
  unfold commitDu
  simp only [h]
  rfl

/-- R14: a trigger places a report with the unit's new values. -/
theorem commitDu_trigger {latch : MotionCauses} {d : Du} {s : State}
    (h : (latch.union ⟨d.motion ≠ s.du.motion, d.fast ≠ s.du.fast, false, false⟩).any = true) :
    commitDu latch d s = (s.setDu d).setLi (s.li.placeMotion
      (latch.union ⟨d.motion ≠ s.du.motion, d.fast ≠ s.du.fast, false, false⟩) d.motionReport) := by
  unfold commitDu
  simp only [h]
  rfl

/-- A cause set holds no cause exactly when it is the empty one. -/
theorem MotionCauses.any_eq_false {c : MotionCauses} : c.any = false ↔ c = ⟨false, false, false, false⟩ := by
  cases c
  simp [MotionCauses.any]
  constructor
  · rintro ⟨⟨⟨rfl, rfl⟩, rfl⟩, rfl⟩
    exact ⟨rfl, rfl, rfl, rfl⟩
  · rintro ⟨rfl, rfl, rfl, rfl⟩
    exact ⟨⟨⟨rfl, rfl⟩, rfl⟩, rfl⟩

/-! ## What keeps the engines -/

/-- The release of clusters leaves the engines. -/
@[simp] theorem releaseClusters_se (s : State) : (releaseClusters s).se = s.se := by
  simp [releaseClusters]

@[simp] theorem placeRunstate_se (c : RunCauses) (w : Option (Int × SwapPlace)) (s : State) :
    (placeRunstate c w s).se = s.se := rfl

@[simp] theorem drainBothGaps_se (s : State) : (drainBothGaps s).se = s.se := by
  unfold drainBothGaps
  split
  · split <;> rfl
  · rfl

@[simp] theorem commitDu_se (latch : MotionCauses) (d : Du) (s : State) : (commitDu latch d s).se = s.se := by
  simp only [commitDu]
  split <;> rfl

@[simp] theorem swapPlans_se (s : State) : (swapPlans s).se = s.se := by
  simp [swapPlans, recomputeFast]

@[simp] theorem recordTakesEffect_se (x : Side) (s : State) (ch : Channel) : (recordTakesEffect x s ch).se = s.se := by
  unfold recordTakesEffect
  split <;> rfl

/-- A fold of steps that keep the engines keeps them. -/
theorem foldl_se {α : Type} {g : State → α → State} (h : ∀ s a, (g s a).se = s.se) :
    ∀ (l : List α) (s : State), (l.foldl g s).se = s.se
  | [], _ => rfl
  | a :: l, s => (foldl_se h l (g s a)).trans (h s a)

@[simp] theorem recordsTakeEffect_se (s : State) : (recordsTakeEffect s).se = s.se := by
  unfold recordsTakeEffect
  rw [foldl_se (recordTakesEffect_se .b), foldl_se (recordTakesEffect_se .a)]

@[simp] theorem drainEnd_se (s : State) : (drainEnd s).se = s.se := by
  simp only [drainEnd]
  split <;> simp

@[simp] theorem drainEndTest_se (s : State) : (drainEndTest s).se = s.se := by
  unfold drainEndTest
  split <;> simp

@[simp] theorem releasePhase_se (s : State) : (releasePhase s).se = s.se := by
  simp [releasePhase, forcedRelease]

/-- The test of the drain leaves the engines. -/
@[simp] theorem drainTest_se (s : State) : (drainTest s).se = s.se := by
  unfold drainTest
  split <;> simp

/-! ## Step evaluation -/

/-- R72: side `x`'s engine after one of its records has been evaluated. -/
theorem stepEvaluation_se {x : Side} {s : State} {r : StepRecord} {rest : List StepRecord}
    (h : (s.se.get x).finished = r :: rest) :
    (stepEvaluation x s).se.get x = if rest = [] then ⟨none, []⟩ else ⟨(s.se.get x).firing, rest⟩ := by
  unfold stepEvaluation
  split
  · rename_i hn
    rw [hn] at h
    cases h
  · rename_i r' rest' hc
    rw [hc] at h
    cases h
    simp only [State.setSe_se, PerSide.get_set_self]
    cases rest <;> simp

/-- A step evaluation leaves the other side's engine. -/
theorem stepEvaluation_se_of_ne {x y : Side} (s : State) (h : y ≠ x) :
    (stepEvaluation x s).se.get y = s.se.get y := by
  unfold stepEvaluation
  split
  · rfl
  · simp only [State.setSe_se, State.setRecorder_se, State.setTrack_se]
    exact PerSide.get_set_of_ne _ _ _ _ h

/-- With no record left, the evaluation is the test of the drain. -/
theorem evaluateFinished_nil {x : Side} {s : State} (h : (s.se.get x).finished = []) :
    evaluateFinished x s = drainTest s := by
  unfold evaluateFinished
  rw [h]
  rfl

/-- The records are evaluated one after another. -/
theorem evaluateFinished_cons {x : Side} {s : State} (h : (s.se.get x).finished ≠ []) :
    evaluateFinished x s = evaluateFinished x (stepEvaluation x s) := by
  obtain ⟨r, rest, hr⟩ : ∃ r rest, (s.se.get x).finished = r :: rest := by
    cases hf : (s.se.get x).finished with
    | nil => exact absurd hf h
    | cons r rest => exact ⟨r, rest, rfl⟩
  unfold evaluateFinished
  rw [hr, stepEvaluation_se hr]
  cases rest <;> simp [evaluateTimes]

/-- R72: after the last record the engine is IDLE. -/
theorem evaluateFinished_se {x : Side} : ∀ {l : List StepRecord} {s : State},
    (s.se.get x).finished = l → l ≠ [] → (evaluateFinished x s).se.get x = ⟨none, []⟩
  | [], _, _, h => absurd rfl h
  | [r], s, hs, _ => by
    have he := stepEvaluation_se hs
    rw [evaluateFinished_cons (by rw [hs]; exact List.cons_ne_nil _ _),
      evaluateFinished_nil (by rw [he]; rfl), drainTest_se, he]
    rfl
  | r :: r' :: rest, s, hs, _ => by
    have he := stepEvaluation_se hs
    rw [evaluateFinished_cons (by rw [hs]; exact List.cons_ne_nil _ _)]
    exact evaluateFinished_se (l := r' :: rest) (by rw [he]; rfl) (List.cons_ne_nil _ _)

/-! ## The list -/

@[simp] theorem State.setSe_setSe (s : State) (x : Side) (v w : Se) : (s.setSe x v).setSe x w = s.setSe x w := by
  simp [State.setSe]

/-- R72: an engine given records to evaluate is IDLE once they are evaluated. -/
theorem evaluateFinished_setSe_se (s : State) (x : Side) {v : Se} (h : v.finished ≠ []) :
    (evaluateFinished x (s.setSe x v)).se.get x = ⟨none, []⟩ :=
  evaluateFinished_se (by rw [State.setSe_se, PerSide.get_set_self]) h

/-- What an engine holds is changed while it is FIRING. -/
theorem State.modifyFiring_some {s : State} {x : Side} {f : Firing} (h : (s.se.get x).firing = some f)
    (g : Firing → Firing) : s.modifyFiring x g = s.setSe x { s.se.get x with firing := some (g f) } := by
  simp [State.modifyFiring, h]

/-- R62, R72: the end of the list. -/
theorem endOfList_some {s : State} {x : Side} {f : Firing} (h : (s.se.get x).firing = some f) :
    endOfList x s = evaluateFinished x (s.setSe x
      ⟨some { f with inFlight := none }, ⟨f.step, f.generation, f.record⟩ :: owedRecords (s.ps.active.get x) f⟩) := by
  unfold endOfList
  rw [h]

/-- R72: after the end of the list the engine is IDLE. -/
theorem endOfList_se {s : State} {x : Side} {f : Firing} (h : (s.se.get x).firing = some f) :
    (endOfList x s).se.get x = ⟨none, []⟩ := by
  rw [endOfList_some h]
  exact evaluateFinished_setSe_se _ _ (List.cons_ne_nil _ _)

/-- R65: an executable shot starts. -/
theorem reachShots_start {s : State} {x : Side} {i : Nat} {rest : List Nat} {p : PlannedShot}
    (hp : activeShot s x i = some p) (ha : (s.sc.get x).state = .armed) (he : (s.sc.get x).executable p.shot = true) :
    reachShots x (i :: rest) s = startShot x i p s := by
  simp [reachShots, hp, ha, he]

/-- R71: a shot that is not executable is skipped, and the list goes on. -/
theorem reachShots_skip {s : State} {x : Side} {i : Nat} {rest : List Nat} {p : PlannedShot}
    (hp : activeShot s x i = some p) (ha : (s.sc.get x).state = .armed) (he : (s.sc.get x).executable p.shot = false) :
    reachShots x (i :: rest) s =
      reachShots x rest (s.modifyFiring x (Firing.addEntry (skipEntry .channelOff i p))) := by
  simp [reachShots, hp, ha, he]

/-- Log 18: a due shot reached while the side is not ARMED. -/
theorem reachShots_notArmed {s : State} {x : Side} {i : Nat} {rest : List Nat} {p : PlannedShot}
    (hp : activeShot s x i = some p) (ha : (s.sc.get x).state ≠ .armed) :
    reachShots x (i :: rest) s =
      reachShots x rest (s.modifyFiring x (Firing.addEntry (skipEntry .sideNotReady i p))) := by
  simp [reachShots, hp, ha]

/-- R74: the abort of a list ends it with the rest of its due shots skipped. -/
theorem abortList_some {s : State} {x : Side} {f : Firing} (h : (s.se.get x).firing = some f) :
    abortList x s = evaluateFinished x (s.setSe x
      ⟨some { f with
          inFlight := none
          record := f.record ++ skipEntries .sideNotReady (s.ps.active.get x) (f.due.drop f.position) },
        ⟨f.step, f.generation,
          f.record ++ skipEntries .sideNotReady (s.ps.active.get x) (f.due.drop f.position)⟩ ::
            owedRecords (s.ps.active.get x) f⟩) := by
  unfold abortList
  rw [h]
  simp only [State.modifyFiring_some h]
  rw [endOfList_some (f := { f with
    inFlight := none
    record := f.record ++ skipEntries .sideNotReady (s.ps.active.get x) (f.due.drop f.position) })
    (by rw [State.setSe_se, PerSide.get_set_self]), State.setSe_setSe, State.setSe_ps]
  rfl

/-- R74: after an abort the engine is IDLE. -/
theorem abortList_se {s : State} {x : Side} {f : Firing} (h : (s.se.get x).firing = some f) :
    (abortList x s).se.get x = ⟨none, []⟩ := by
  rw [abortList_some h]
  exact evaluateFinished_setSe_se _ _ (List.cons_ne_nil _ _)

/-! ## Due shots -/

/-- Filtering by the value keeps the positions in order. -/
theorem zipIdx_filter_ascending {α : Type} (f : α → Bool) : ∀ (l : List α) (n : Nat),
    (((l.zipIdx n).filter (fun q => f q.1)).map Prod.snd).Pairwise (· < ·) ∧
      ∀ i ∈ ((l.zipIdx n).filter (fun q => f q.1)).map Prod.snd, n ≤ i
  | [], _ => by simp
  | a :: l, n => by
    obtain ⟨h1, h2⟩ := zipIdx_filter_ascending f l (n + 1)
    rw [List.zipIdx_cons, List.filter_cons]
    split
    · refine ⟨List.Pairwise.cons (fun i hi => h2 i hi) h1, fun i hi => ?_⟩
      rcases List.mem_cons.1 hi with rfl | hi
      · exact Nat.le_refl _
      · exact Nat.le_of_succ_le (h2 i hi)
    · exact ⟨h1, fun i hi => Nat.le_of_succ_le (h2 i hi)⟩

/-- R61: the due indices ascend. -/
theorem dueIndices_ascending (l : ShotList) (z : Int) : (l.dueIndices z).Pairwise (· < ·) :=
  (zipIdx_filter_ascending (fun p : PlannedShot => p.shot.dueAt z) l.shots 0).1

/-- R41, R61: which indices are due. -/
theorem mem_dueIndices {l : ShotList} {z : Int} {i : Nat} :
    i ∈ l.dueIndices z ↔ ∃ p, l.shots[i]? = some p ∧ p.shot.dueAt z = true := by
  unfold ShotList.dueIndices
  constructor
  · intro h
    obtain ⟨⟨p, j⟩, hp, rfl⟩ := List.mem_map.1 h
    obtain ⟨hm, hd⟩ := List.mem_filter.1 hp
    have := List.mem_zipIdx_iff_getElem?.1 hm
    exact ⟨p, this, hd⟩
  · rintro ⟨p, hp, hd⟩
    exact List.mem_map.2 ⟨(p, i), List.mem_filter.2 ⟨List.mem_zipIdx_iff_getElem?.2 hp, hd⟩, rfl⟩

end Sys2Proof.Machine
end

