-- ==== Sys2Proof/Laws/Coupling.lean ====
section
/-! SUPPORT. What the Coupling Supervisor's settings do: the plan swap (R54), the pending channel records of both sides
(R31, R99), and a COUPLING result (R95, R96). -/
namespace Sys2Proof.Machine

/-! ## The plan swap -/

/-- The Distance Unit does not look at the plans. -/
theorem commitDu_setPs (latch : MotionCauses) (d : Du) (p : Ps) (s : State) :
    commitDu latch d (s.setPs p) = (commitDu latch d s).setPs p := by
  unfold commitDu
  simp only [apply_ite (fun t : State => t.setPs p)]
  rfl

/-- R13, R54: what a swap does outside the ratings. -/
theorem swapPlans_eq (s : State) : swapPlans s =
    { commitDu noLatch
        { s.du with fast := fastOf s.du.period (max s.ps.staged.a.planTime s.ps.staged.b.planTime) } s with
      ps := ⟨s.ps.staged, s.ps.active, s.ps.generation + 1, false⟩
      cs := (swapPlans s).cs } := by
  unfold swapPlans recomputeFast
  dsimp only
  rw [commitDu_setPs]
  rfl

/-! ## Pending records -/

/-- R31, R99: the records of the channels of a list on side `x` have taken effect, and nothing else has happened. -/
structure RecordsTaken (x : Side) (l : List Channel) (s t : State) : Prop where
  frame : t = { s with sc := s.sc.set x (t.sc.get x), cs := s.cs.set x (t.cs.get x) }
  side : t.sc.get x = { s.sc.get x with
    channels := (t.sc.get x).channels, pendingRecords := (t.sc.get x).pendingRecords }
  supervised : (t.cs.get x).supervised = (s.cs.get x).supervised
  gone : ∀ ch ∈ l, (t.sc.get x).pendingRecords[ch] = none
  taken : ∀ ch ∈ l, ∀ r : ChannelRecord, (s.sc.get x).pendingRecords[ch] = some r →
    (t.sc.get x).channels[ch] = r ∧ (t.cs.get x).ratings[ch] = freshRating (s.cs.get x).supervised ch
  kept : ∀ ch : Channel, ch ∉ l ∨ (s.sc.get x).pendingRecords[ch] = none →
    (t.sc.get x).pendingRecords[ch] = (s.sc.get x).pendingRecords[ch] ∧
    (t.sc.get x).channels[ch] = (s.sc.get x).channels[ch] ∧ (t.cs.get x).ratings[ch] = (s.cs.get x).ratings[ch]

/-- A component of a vector of which one has been replaced. -/
theorem vector_get_set {α : Type} {n : Nat} (v : Vector α n) (i j : Fin n) (a : α) :
    (v.set i a)[j] = if j = i then a else v[j] := by
  show (v.set i.val a)[j.val] = _
  rw [Vector.getElem_set]
  by_cases h : j = i
  · subst h; simp
  · rw [if_neg (fun e => h (Fin.ext e.symm)), if_neg h]; rfl

/-- One channel's record. -/
theorem recordTakesEffect_taken (x : Side) (s : State) (ch : Channel) :
    RecordsTaken x [ch] s (recordTakesEffect x s ch) := by
  unfold recordTakesEffect
  cases h : (s.sc.get x).pendingRecords[ch] with
  | none =>
    refine ⟨by simp, rfl, rfl, fun c hc => ?_, fun c hc r hr => ?_, fun c _ => ⟨rfl, rfl, rfl⟩⟩
    · rw [List.mem_singleton.1 hc]; exact h
    · rw [List.mem_singleton.1 hc, h] at hr; cases hr
  | some r =>
    dsimp only
    refine ⟨by simp [State.setCs, State.modifySc, State.setSc], by simp, by simp [Cs.refresh], fun c hc => ?_,
      fun c hc r' hr => ?_, fun c hc => ?_⟩
    · rw [List.mem_singleton.1 hc]
      simp only [State.setCs_sc, State.modifySc_sc, PerSide.get_set_self, vector_get_set, if_true]
    · rw [List.mem_singleton.1 hc] at hr ⊢
      rw [h] at hr
      cases hr
      simp only [State.setCs_sc, State.setCs_cs, State.modifySc_sc, State.modifySc_cs, PerSide.get_set_self, Cs.refresh,
        vector_get_set, if_true, and_self]
    · have hne : c ≠ ch := by
        rintro rfl
        rcases hc with hc | hc
        · exact hc (List.mem_singleton.2 rfl)
        · rw [h] at hc; cases hc
      simp only [State.setCs_sc, State.setCs_cs, State.modifySc_sc, State.modifySc_cs, PerSide.get_set_self, Cs.refresh,
        vector_get_set, if_neg hne, and_self]

/-- One list of channels after another. -/
theorem RecordsTaken.trans {x : Side} {l m : List Channel} {s t u : State} (h : RecordsTaken x l s t)
    (k : RecordsTaken x m t u) : RecordsTaken x (l ++ m) s u where
  frame := by
    rw [k.frame]
    conv => lhs; rw [h.frame]
    simp
  side := by rw [k.side, h.side]
  supervised := k.supervised.trans h.supervised
  gone := fun ch hc => by
    by_cases hm : ch ∈ m
    · exact k.gone ch hm
    · rw [(k.kept ch (.inl hm)).1]
      exact h.gone ch ((List.mem_append.1 hc).resolve_right hm)
  taken := fun ch hc r hr => by
    by_cases hl : ch ∈ l
    · have e := k.kept ch (.inr (h.gone ch hl))
      rw [e.2.1, e.2.2]
      exact h.taken ch hl r hr
    · have hm := (List.mem_append.1 hc).resolve_left hl
      have e := h.kept ch (.inl hl)
      have := k.taken ch hm r (by rw [e.1]; exact hr)
      rwa [h.supervised] at this
  kept := fun ch hc => by
    have h1 := h.kept ch (hc.imp_left (fun n e => n (List.mem_append_left _ e)))
    have h2 := k.kept ch (hc.imp (fun n e => n (List.mem_append_right _ e)) (fun e => by rw [h1.1]; exact e))
    exact ⟨h2.1.trans h1.1, h2.2.1.trans h1.2.1, h2.2.2.trans h1.2.2⟩

/-- A list of channels, one at a time. -/
theorem foldl_recordTakesEffect (x : Side) : ∀ (l : List Channel) (s : State),
    RecordsTaken x l s (l.foldl (recordTakesEffect x) s)
  | [], s => ⟨by simp, rfl, rfl, by simp, by simp, fun _ _ => ⟨rfl, rfl, rfl⟩⟩
  | ch :: l, s => (recordTakesEffect_taken x s ch).trans (foldl_recordTakesEffect x l _)

/-- R31: all pending records of both sides. -/
theorem recordsTakeEffect_taken (s : State) : ∃ t : State,
    RecordsTaken .a allChannels s t ∧ RecordsTaken .b allChannels t (recordsTakeEffect s) :=
  ⟨_, foldl_recordTakesEffect .a allChannels s, foldl_recordTakesEffect .b allChannels _⟩

/-- The other side stays. -/
theorem RecordsTaken.other {x y : Side} {l : List Channel} {s t : State} (h : RecordsTaken x l s t) (hne : y ≠ x) :
    t.sc.get y = s.sc.get y ∧ t.cs.get y = s.cs.get y := by
  rw [h.frame]
  exact ⟨PerSide.get_set_of_ne _ _ _ _ hne, PerSide.get_set_of_ne _ _ _ _ hne⟩

/-! ## A COUPLING result -/

/-- R95, R96: a result that raises no event. -/
theorem couplingResult_quiet {x : Side} {ch : Channel} {good : Bool} {s : State} {c : ChannelCoupling}
    (h : rate (s.sc.get x).channels[ch].lose (s.sc.get x).channels[ch].regain (s.cs.get x).ratings[ch] good = (c, none)) :
    couplingResult x ch good s = s.setCs x { s.cs.get x with ratings := (s.cs.get x).ratings.set ch c } := by
  simp only [couplingResult, h]

/-- R95, R100: a result that raises an event. -/
theorem couplingResult_event {x : Side} {ch : Channel} {good : Bool} {s : State} {c : ChannelCoupling} {e : SideEvent}
    (h : rate (s.sc.get x).channels[ch].lose (s.sc.get x).channels[ch].regain (s.cs.get x).ratings[ch] good =
      (c, some e)) :
    couplingResult x ch good s =
      raiseCoupling x e ch (s.setCs x { s.cs.get x with ratings := (s.cs.get x).ratings.set ch c }) := by
  simp only [couplingResult, h]

end Sys2Proof.Machine
end

