-- ==== Sys2Proof/Laws/Gaps.lean ====
section
/-! SUPPORT. What the Gap Recorder does: the closed gaps that reach the GAP slot at a step evaluation and at the drain
(R145, R146, R151), and what placing one does (R148, R149). -/
namespace Sys2Proof.Machine

/-- Two partial maps that agree on a list. -/
theorem filterMap_congr {α β : Type} {f g : α → Option β} : ∀ {l : List α}, (∀ a ∈ l, f a = g a) →
    l.filterMap f = l.filterMap g
  | [], _ => rfl
  | a :: l, h => by
    rw [List.filterMap_cons, List.filterMap_cons, h a List.mem_cons_self,
      filterMap_congr (fun b hb => h b (List.mem_cons_of_mem _ hb))]

/-- The placing of closed gaps, in the order of a list of causes without repetition. -/
theorem closeGaps_li (x : Side) (drain : Bool) (which : GapCause → Bool) : ∀ (cs : List GapCause) (r : Recorder), cs.Nodup →
    (cs.foldl (fun r c => if which c then r.closeGap x drain c else r) r).li =
      (cs.filterMap (fun c => if which c then (r.gr.gaps.get c).map (fun g => g.range c drain) else none)).foldl
        (fun l g => l.placeGap x g) r.li
  | [], _, _ => rfl
  | c :: cs, r, h => by
    obtain ⟨hc, hcs⟩ := List.nodup_cons.1 h
    rw [List.foldl_cons, closeGaps_li x drain which cs _ hcs]
    have keep : ∀ d ∈ cs, ∀ q : Recorder, (q.closeGap x drain c).gr.gaps.get d = q.gr.gaps.get d := by
      intro d hd q
      unfold Recorder.closeGap
      split
      · rfl
      · rw [PerCause.get_set, if_neg (fun e => hc (by rw [← e]; exact hd))]
    cases hw : which c with
    | false =>
      rw [List.filterMap_cons_none (by simp [hw])]
      simp
    | true =>
      simp only [if_true]
      have hm : cs.filterMap (fun d => if which d then ((r.closeGap x drain c).gr.gaps.get d).map (fun g => g.range d drain)
            else none) =
          cs.filterMap (fun d => if which d then (r.gr.gaps.get d).map (fun g => g.range d drain) else none) := by
        refine filterMap_congr (fun d hd => ?_)
        rw [keep d hd]
      rw [hm]
      unfold Recorder.closeGap
      cases hg : r.gr.gaps.get c with
      | none => rw [List.filterMap_cons_none (by simp [hw, hg])]
      | some g => rw [List.filterMap_cons_some (b := g.range c drain) (by simp [hw, hg]), List.foldl_cons]

/-- Taking the present causes leaves the gaps of the absent ones. -/
theorem present_get {step : Int} {causes : GapCause → Mask} {c : GapCause} (h : causes c = 0) : ∀ (cs : List GapCause) (g : Gr),
    (cs.foldl (Gr.present step causes) g).gaps.get c = g.gaps.get c
  | [], _ => rfl
  | d :: cs, g => by
    rw [List.foldl_cons, present_get h cs]
    unfold Gr.present
    split
    · rfl
    · rename_i hd
      rw [PerCause.get_set, if_neg (fun e => hd (by rw [← e]; exact h))]

/-- R145, R146: the closed gaps of a step evaluation. -/
theorem Recorder.evaluate_li (x : Side) (step : Int) (causes : GapCause → Mask) (r : Recorder) :
    (r.evaluate x step causes).li = (gapCauses.filterMap (fun c =>
      if causes c = 0 then (r.gr.gaps.get c).map (fun g => g.range c false) else none)).foldl
        (fun l g => l.placeGap x g) r.li := by
  unfold Recorder.evaluate
  have hf : Recorder.absent x causes = (fun r c => if decide (causes c = 0) then r.closeGap x false c else r) := by
    funext r c
    simp [Recorder.absent]
  rw [hf, closeGaps_li x false _ gapCauses _ (by decide)]
  congr 1
  refine filterMap_congr (fun c _ => ?_)
  by_cases h : causes c = 0
  · simp only [h, decide_true, if_true, present_get h]
  · simp only [h, decide_false, if_false, Bool.false_eq_true]

/-- R151: the closed gaps of the drain. -/
theorem Recorder.drain_li (x : Side) (r : Recorder) :
    (r.drain x).li = (gapCauses.filterMap (fun c => (r.gr.gaps.get c).map (fun g => g.range c true))).foldl
        (fun l g => l.placeGap x g) r.li :=
  closeGaps_li x true (fun _ => true) gapCauses r (by decide)

/-- R149: the eighth range takes every further one. -/
theorem mergeLast_append (r g : GapRange) : ∀ before : List GapRange,
    mergeLast (before ++ [r]) g = before ++ [r.merge g]
  | [] => rfl
  | [_] => rfl
  | a :: b :: l => congrArg (a :: ·) (mergeLast_append r g (b :: l))

end Sys2Proof.Machine
end

