-- ==== Sys2Proof/Laws/Gates.lean ====
section
/-! SUPPORT. What the Gate Evaluator does: the trace as delivered (R78), the result of a gate by its window (R80 to R86), and
the results of a shot's gates one by one (R79). -/
namespace Sys2Proof.Machine

/-- R78: a delivered trace ends at the listening end. -/
theorem deliveredTrace_length (trace : List Nat) (n : Nat) : (deliveredTrace trace n).length = n := by
  simp only [deliveredTrace, List.length_append, List.length_map, List.length_take, List.length_replicate]
  omega

/-- R78: a sample of a delivered trace. -/
theorem deliveredTrace_get (trace : List Nat) {n t : Nat} (h : t < n) :
    (deliveredTrace trace n)[t]? = some (min 200 (trace.getD t 0)) := by
  unfold deliveredTrace Config.fullScale
  by_cases ht : t < trace.length
  · rw [List.getElem?_append_left (by simp; omega), List.getElem?_map, List.getElem?_take, if_pos h,
      List.getElem?_eq_getElem ht]
    simp [ht, Nat.min_comm]
  · rw [List.getElem?_append_right (by simp; omega), List.getElem?_replicate, if_pos (by simp; omega)]
    simp [ht]

/-- What a gate's condition makes of the samples of the window [a, b). -/
def Gate.judged (g : Gate) (trace : List Nat) (a b : Nat) : ResultKind :=
  if g.condition.holds g.t1 g.t2 (measure (window trace a b) a).peak then .hit (measure (window trace a b) a)
  else .miss (measure (window trace a b) a)

/-- R83, R86: the result of a gate by its window. -/
theorem Gate.kind_eq (g : Gate) (trace : List Nat) (crossing : Option Nat) :
    g.kind trace crossing = match g.placedWindow crossing with
      | none => .unevaluated
      | some (a, b) => g.judged trace a b := rfl

/-- R80: an ABSOLUTE gate. -/
theorem Gate.kind_absolute {g : Gate} (h : g.mode = .absolute) (trace : List Nat) (crossing : Option Nat) :
    g.kind trace crossing = g.judged trace g.start (g.start + g.width) := by
  simp only [Gate.kind_eq, Gate.placedWindow, h]

/-- R83: a FOLLOW gate without a first crossing. -/
theorem Gate.kind_follow_none {g : Gate} (h : g.mode = .follow) (trace : List Nat) :
    g.kind trace none = .unevaluated := by
  simp only [Gate.kind_eq, Gate.placedWindow, h]

/-- R82, R83: a FOLLOW gate with one. -/
theorem Gate.kind_follow_some {g : Gate} (h : g.mode = .follow) (trace : List Nat) (c : Nat) :
    g.kind trace (some c) = if 4000 ≤ c + g.start then .unevaluated
      else g.judged trace (c + g.start) (min (c + g.start + g.width) 4000) := by
  simp only [Gate.kind_eq, Gate.placedWindow, h, Config.traceEnd]
  by_cases hc : 4000 ≤ c + g.start <;> simp only [hc, if_true, if_false]

/-- The first crossing that a REFERENCE gate finds (R81). -/
def Gate.crossing (trace : List Nat) (g : Gate) : Option Nat :=
  firstCrossing (window trace g.start (g.start + g.width)) g.start g.t1

/-- The result of a gate, once the first crossing so far is known (R87). -/
def Gate.result (g : Gate) (trace : List Nat) (n : Nat) (crossing : Option Nat) : GateResult :=
  match g.purpose with
  | .reference => .reference n (g.crossing trace)
  | .detect => .detect n (g.kind trace crossing)
  | .coupling => .coupling n (g.kind trace crossing)

/-- The first crossing of the last REFERENCE gate of a list, or an earlier one. -/
def lastCrossing (trace : List Nat) (crossing : Option Nat) (gates : List Gate) : Option Nat :=
  match gates.reverse.find? (fun r => decide (r.purpose = .reference)) with
  | none => crossing
  | some r => r.crossing trace

theorem lastCrossing_cons (trace : List Nat) (crossing : Option Nat) (g : Gate) (gs : List Gate) :
    lastCrossing trace crossing (g :: gs) =
      lastCrossing trace (if g.purpose = .reference then g.crossing trace else crossing) gs := by
  unfold lastCrossing
  rw [List.reverse_cons, List.find?_append]
  cases gs.reverse.find? (fun r => decide (r.purpose = .reference)) with
  | some r => rfl
  | none =>
    by_cases h : g.purpose = .reference <;> simp [h]

/-- R79, R87: one result for each gate, in their order. -/
theorem evaluateFrom_get (trace : List Nat) : ∀ (gates : List Gate) (m : Nat) (crossing : Option Nat),
    (evaluateFrom trace gates m crossing).length = gates.length ∧
    ∀ (n : Nat) (g : Gate), gates[n]? = some g →
      (evaluateFrom trace gates m crossing)[n]? =
        some (g.result trace (m + n) (lastCrossing trace crossing (gates.take n)))
  | [], _, _ => ⟨rfl, fun _ _ h => nomatch h⟩
  | a :: gs, m, crossing => by
    have step : evaluateFrom trace (a :: gs) m crossing = a.result trace m crossing ::
        evaluateFrom trace gs (m + 1) (if a.purpose = .reference then a.crossing trace else crossing) := by
      rw [evaluateFrom, Gate.result]
      cases a.purpose <;> rfl
    obtain ⟨ih1, ih2⟩ := evaluateFrom_get trace gs (m + 1)
      (if a.purpose = .reference then a.crossing trace else crossing)
    rw [step]
    refine ⟨congrArg (· + 1) ih1, fun n g h => ?_⟩
    cases n with
    | zero => cases h; rfl
    | succ n =>
      rw [List.getElem?_cons_succ, ih2 n g h, List.take_succ_cons, lastCrossing_cons, Nat.add_right_comm, Nat.add_assoc]

end Sys2Proof.Machine
end

