-- ==== Sys2Proof/WellFormed.lean ====
section
/-! DEFINITION. Which commands are well formed: the limits the spec sets to what an operand brings. -/
namespace Sys2Proof

/-- R78: a trace holds at most 4000 samples. -/
def traceLengthOk (trace : List Nat) : Bool := trace.length ≤ Config.traceEnd

/-- R78: the front end delivers no value above 200. -/
def traceSamplesOk (trace : List Nat) : Bool := trace.all (fun v => v ≤ Config.fullScale)

/-- The checks of the operands. Side, channel, character and pin operands cannot be out of range. -/
def Instr.wellFormed : Instr → Bool
  | .shotCompletion _ _ trace => traceLengthOk trace && traceSamplesOk trace
  | .identify | .queryStatus | .setOdometry | .presetPosition | .setTracking | .setSide | .armSide
  | .disarmSide | .clearFault | .setChannel | .setProfile | .writeShot | .clearStaged | .readShot
  | .swapPlans | .setZone | .setOffset | .startRun | .stopRun | .reset | .unknownRequestKind
  | .forwardCount _ _ | .reverseCount _ | .illegalTransition _ | .standstillTimerExpiry
  | .carriageInputChange _ _ | .debounceExpiry _ | .hvrdyArrival _ _ | .hvrdyFall _ _
  | .hvfltAsserted _ _ _ | .rampTimerExpiry _ | .planSwapAtBoundary | .channelRecordTakesEffect _ _
  | .stepEvaluation _ | .clusterRelease | .drainReleasePhase | .drainEnd | .characterReceived _ _
  | .idleTimerExpiry | .holdInAssert _ | .holdInRelease _ | .transmissionStart | .transmissionEnd
  | .resetRunActs | .resetFullActs | .pinResetAssert _ | .pinResetRelease _ _ => true

end Sys2Proof
end

