-- ==== Sys2Proof/Laws/PerInstr.lean ====
section
/-! SUPPORT. What holds of each command as syntax, one lemma per constructor. -/
namespace Sys2Proof.Laws.RequestForms
open Sys2Proof.Machine

/-- A command that carries out a request is well formed, its kind code names a request, and its payload fits in a
frame (R156, R172, Section 12.1). -/
def Statement (i : Instr) : Prop :=
  ∀ (k : Byte) (n : Nat), requestForm i = some (k, n) →
    i.wellFormed = true ∧ isRequestKind k = true ∧ n ≤ Config.maxPayload

/-- A command with this form keeps the statement. -/
theorem of_some {i : Instr} {k : Byte} {n : Nat} (h : requestForm i = some (k, n)) (w : i.wellFormed = true)
    (hk : isRequestKind k = true) (hn : n ≤ Config.maxPayload) : Statement i := fun k' n' e => by
  rw [h] at e
  obtain ⟨rfl, rfl⟩ := Prod.mk.inj (Option.some.inj e)
  exact ⟨w, hk, hn⟩

/-- A command that carries out no request keeps the statement. -/
theorem of_none {i : Instr} (h : requestForm i = none) : Statement i := fun k n e => by
  rw [h] at e; cases e

theorem identify : Statement .identify := of_some rfl rfl rfl (by decide)
theorem queryStatus : Statement .queryStatus := of_some rfl rfl rfl (by decide)
theorem setOdometry : Statement .setOdometry := of_some rfl rfl rfl (by decide)
theorem presetPosition : Statement .presetPosition := of_some rfl rfl rfl (by decide)
theorem setTracking : Statement .setTracking := of_some rfl rfl rfl (by decide)
theorem setSide : Statement .setSide := of_some rfl rfl rfl (by decide)
theorem armSide : Statement .armSide := of_some rfl rfl rfl (by decide)
theorem disarmSide : Statement .disarmSide := of_some rfl rfl rfl (by decide)
theorem clearFault : Statement .clearFault := of_some rfl rfl rfl (by decide)
theorem setChannel : Statement .setChannel := of_some rfl rfl rfl (by decide)
theorem setProfile : Statement .setProfile := of_some rfl rfl rfl (by decide)
theorem writeShot : Statement .writeShot := of_some rfl rfl rfl (by decide)
theorem clearStaged : Statement .clearStaged := of_some rfl rfl rfl (by decide)
theorem readShot : Statement .readShot := of_some rfl rfl rfl (by decide)
theorem swapPlans : Statement .swapPlans := of_some rfl rfl rfl (by decide)
theorem setZone : Statement .setZone := of_some rfl rfl rfl (by decide)
theorem setOffset : Statement .setOffset := of_some rfl rfl rfl (by decide)
theorem startRun : Statement .startRun := of_some rfl rfl rfl (by decide)
theorem stopRun : Statement .stopRun := of_some rfl rfl rfl (by decide)
theorem reset : Statement .reset := of_some rfl rfl rfl (by decide)
theorem unknownRequestKind : Statement .unknownRequestKind := of_none rfl
theorem forwardCount (after : Nat) (first : Side) : Statement (.forwardCount after first) := of_none rfl
theorem reverseCount (after : Nat) : Statement (.reverseCount after) := of_none rfl
theorem illegalTransition (after : Nat) : Statement (.illegalTransition after) := of_none rfl
theorem standstillTimerExpiry : Statement .standstillTimerExpiry := of_none rfl
theorem carriageInputChange (after : Nat) (side : Side) : Statement (.carriageInputChange after side) := of_none rfl
theorem debounceExpiry (side : Side) : Statement (.debounceExpiry side) := of_none rfl
theorem hvrdyArrival (after : Nat) (side : Side) : Statement (.hvrdyArrival after side) := of_none rfl
theorem hvrdyFall (after : Nat) (side : Side) : Statement (.hvrdyFall after side) := of_none rfl
theorem hvfltAsserted (after : Nat) (side : Side) (level : Bool) : Statement (.hvfltAsserted after side level) := of_none rfl
theorem rampTimerExpiry (side : Side) : Statement (.rampTimerExpiry side) := of_none rfl
theorem planSwapAtBoundary : Statement .planSwapAtBoundary := of_none rfl
theorem channelRecordTakesEffect (side : Side) (channel : Channel) : Statement (.channelRecordTakesEffect side channel) := of_none rfl
theorem shotCompletion (side : Side) (load : LoadStatus) (trace : List Nat) : Statement (.shotCompletion side load trace) := of_none rfl
theorem stepEvaluation (side : Side) : Statement (.stepEvaluation side) := of_none rfl
theorem clusterRelease : Statement .clusterRelease := of_none rfl
theorem drainReleasePhase : Statement .drainReleasePhase := of_none rfl
theorem drainEnd : Statement .drainEnd := of_none rfl
theorem characterReceived (after : Nat) (character : Character) : Statement (.characterReceived after character) := of_none rfl
theorem idleTimerExpiry : Statement .idleTimerExpiry := of_none rfl
theorem holdInAssert (after : Nat) : Statement (.holdInAssert after) := of_none rfl
theorem holdInRelease (after : Nat) : Statement (.holdInRelease after) := of_none rfl
theorem transmissionStart : Statement .transmissionStart := of_none rfl
theorem transmissionEnd : Statement .transmissionEnd := of_none rfl
theorem resetRunActs : Statement .resetRunActs := of_none rfl
theorem resetFullActs : Statement .resetFullActs := of_none rfl
theorem pinResetAssert (after : Nat) : Statement (.pinResetAssert after) := of_none rfl
theorem pinResetRelease (after : Nat) (pins : Pins) : Statement (.pinResetRelease after pins) := of_none rfl

end Sys2Proof.Laws.RequestForms
end

