-- ==== Sys2Proof/Laws/Reports.lean ====
section
/-! SUPPORT. The bits and counts that replies and reports carry: channel masks, flag bytes, the entry and cluster counts
of a side (R34, R125, R141, R186), and the levels of a frame's bits on the line (R154). -/
namespace Sys2Proof.Machine

/-- A bit of one channel's mask. -/
theorem channelBit_getLsbD : ∀ a c : Channel, (channelBit a).getLsbD c.val = decide (c = a) := by decide

/-- The bit of a channel in a mask made from a test. -/
theorem maskOf_getLsbD (f : Channel → Bool) (c : Channel) : (maskOf f).getLsbD c.val = f c := by
  have h : ∀ (l : List Channel) (m : Mask),
      (l.foldl (fun m c => if f c then m ||| channelBit c else m) m).getLsbD c.val =
        (m.getLsbD c.val || (decide (c ∈ l) && f c)) := by
    intro l
    induction l with
    | nil => intro m; simp
    | cons a l ih =>
      intro m
      rw [List.foldl_cons, ih]
      by_cases hc : c = a
      · subst hc
        cases hf : f c
        · simp
        · simp only [if_true, BitVec.getLsbD_or, channelBit_getLsbD]
          simp
      · cases f a
        · simp [hc]
        · simp only [if_true, BitVec.getLsbD_or, channelBit_getLsbD]
          simp [hc]
  unfold maskOf
  rw [h]
  simp [allChannels]

/-- A flag byte as a sum of its bits' weights. -/
theorem flagByte_sum (bs : List Bool) (n : Nat) :
    flagByte bs * 2 ^ n = ((bs.zipIdx n).map (fun q => if q.1 then 2 ^ q.2 else 0)).sum := by
  induction bs generalizing n with
  | nil => simp [flagByte]
  | cons b bs ih =>
    simp only [flagByte, List.zipIdx_cons, List.map_cons, List.sum_cons, ← ih]
    rw [Nat.add_mul, Nat.pow_succ]
    cases b <;> simp [Nat.mul_comm, Nat.mul_assoc, Nat.mul_left_comm]

/-- A count as the length of a filtered list. -/
theorem It.count_eq {t : It} {f g : TableEntry → Bool} (h : ∀ e, f e = g e) :
    t.count f = ((List.finRange 64).filter (fun i => g t.table[i])).length := by
  unfold It.count
  rw [List.countP_eq_length_filter]
  simp [h, allEntries]

/-- Counting heads is counting entries. -/
theorem It.heads_countP (t : It) (q : Indication → Cluster → Bool) :
    t.heads.countP (fun p => q p.2.1 p.2.2) = t.count (fun e => match e with
      | .held a m => m.cluster.any (q a)
      | .free => false
      | .opened _ _ => false) := by
  unfold It.heads It.count
  rw [List.countP_filterMap]
  apply List.countP_congr
  intro i _
  cases h : t.table[i] with
  | free => simp
  | opened a n => simp
  | held a m => rcases m with ⟨h, o, _ | c⟩ <;> simp

/-- R141: the clusters of a side. -/
theorem It.clusters_eq (t : It) (x : Side) :
    t.clusters x = ((List.finRange 64).filter (fun i => match t.table[i] with
      | .held a m => a.side = x && m.cluster.isSome
      | .free => false
      | .opened _ _ => false)).length := by
  unfold It.clusters
  rw [It.heads_countP t (fun a _ => decide (a.side = x))]
  refine It.count_eq (g := fun e => match e with
      | .held a m => a.side = x && m.cluster.isSome
      | .free => false
      | .opened _ _ => false) (fun e => ?_)
  cases e with
  | free => rfl
  | opened a n => rfl
  | held a m => rcases m with ⟨h, o, _ | c⟩ <;> simp

/-- R141: the clusters of a side on the release line. -/
theorem It.clustersOnLine_eq (t : It) (x : Side) :
    t.clustersOnLine x = ((List.finRange 64).filter (fun i => match t.table[i] with
      | .held a m => a.side = x && m.cluster.any (fun c => c.sealedAs.isSome)
      | .free => false
      | .opened _ _ => false)).length := by
  unfold It.clustersOnLine
  rw [It.heads_countP t (fun a c => a.side = x && c.sealedAs.isSome)]
  refine It.count_eq (g := fun e => match e with
      | .held a m => a.side = x && m.cluster.any (fun c => c.sealedAs.isSome)
      | .free => false
      | .opened _ _ => false) (fun e => ?_)
  cases e with
  | free => rfl
  | opened a n => rfl
  | held a m => rcases m with ⟨h, o, _ | c⟩ <;> simp

/-! ## The line -/

/-- R154: a character is eleven bits long. -/
theorem characterLevels_length (c : Character) : (characterLevels c).length = 11 := rfl

/-- R154: a bit of a character. -/
theorem characterLevels_get (c : Character) {i : Nat} (hi : i < 11) :
    (characterLevels c)[i]? = some (if i = 0 then false
      else if i ≤ 8 then c.data.getLsbD (i - 1)
      else if i = 9 then c.mark
      else c.stop) := by
  have data : ((List.range 8).map (fun j => c.data.getLsbD j)).length = 8 := by simp
  unfold characterLevels
  rcases i with _ | j
  · rfl
  · rw [List.cons_append, List.getElem?_cons_succ]
    by_cases hj : j < 8
    · rw [List.getElem?_append_left (by rw [data]; exact hj), List.getElem?_map, List.getElem?_range hj]
      simp [Nat.succ_le_of_lt hj]
    · rw [List.getElem?_append_right (by rw [data]; omega), data]
      have last : j = 8 ∨ j = 9 := by omega
      rcases last with rfl | rfl <;> rfl

/-- Eleven bits stand on the line for each character. -/
theorem TxFrame.bits_length (f : TxFrame) : f.bits.length = 11 * f.characters.length := by
  unfold TxFrame.bits
  rw [List.length_flatMap]
  induction f.characters with
  | nil => rfl
  | cons c cs ih =>
    rw [List.map_cons, List.sum_cons, ih, characterLevels_length, List.length_cons]
    omega

/-- R154: a bit of a frame is a bit of one of its characters. -/
theorem bits_get {cs : List Character} {n i : Nat} {c : Character} (hc : cs[n]? = some c) (hi : i < 11) :
    (cs.flatMap characterLevels)[11 * n + i]? = (characterLevels c)[i]? := by
  induction cs generalizing n with
  | nil => simp at hc
  | cons a cs ih =>
    rw [List.flatMap_cons]
    cases n with
    | zero =>
      simp at hc
      subst hc
      rw [List.getElem?_append_left (by rw [characterLevels_length]; omega)]
      simp
    | succ n =>
      rw [List.getElem?_append_right (by rw [characterLevels_length]; omega), characterLevels_length]
      rw [← ih (n := n) (by simpa using hc)]
      congr 1
      omega

end Sys2Proof.Machine
end

