-- ==== Sys2Proof/Laws/Requests.lean ====
section
/-! SUPPORT. What a request's command does, said once: from `mayTake` to the body's answer, and what the list of field
checks answers. The lemmas about a particular request cite these and never unfold the Request Handler. -/
namespace Sys2Proof.Machine

/-! ## Taking -/

theorem takeable_of_mayTake {s : State} {f : Frame} {rest : List Frame} (h : mayTake s f rest) :
    takeable s = some f := by
  obtain ⟨_, h2, h3, h4⟩ := h
  simp [takeable, h2, h3, h4]

theorem dropFrame_of_mayTake {s : State} {f : Frame} {rest : List Frame} (h : mayTake s f rest) :
    dropFrame s = taken rest s := by
  obtain ⟨_, _, _, h4⟩ := h
  simp [dropFrame, taken, State.setLi, h4]

/-- A reply that is no RESET's ACK. -/
theorem placeReply_replied (f : Frame) (a : Answer) (s : State) (h : f.kind = kindReset → a.accepted = false) :
    placeReply f a s = replied f a.payload s := by
  unfold placeReply replied State.setLi
  have : (decide (f.kind = kindReset) && a.accepted) = false := by
    by_cases hk : f.kind = kindReset
    · simp [h hk]
    · simp [hk]
  rw [this]

/-- A request whose checks of kind, length and run state pass is answered by its body. -/
theorem handleRequest_body {s : State} {f : Frame} {rest : List Frame} {q : RequestForm} (h : mayTake s f rest) (hk : f.kind = q.kind)
    (hn : f.payload.length = q.length) (hg : q.gate s.rc.run = none) :
    s.whenLive (handleRequest q) =
      placeReply f (q.body f.payload (taken rest s)).1 (q.body f.payload (taken rest s)).2 := by
  have ht : (taken rest s).rc = s.rc := rfl
  rw [State.whenLive_live _ _ h.1, handleRequest, takeable_of_mayTake h]
  simp [hk, answerRequest, hn, dropFrame_of_mayTake h, ht, hg]

/-- The reply of a request other than RESET. -/
theorem handleRequest_replied {s : State} {f : Frame} {rest : List Frame} {q : RequestForm} (h : mayTake s f rest) (hk : f.kind = q.kind)
    (hn : f.payload.length = q.length) (hg : q.gate s.rc.run = none) (hr : q.kind ≠ kindReset) :
    s.whenLive (handleRequest q) =
      replied f (q.body f.payload (taken rest s)).1.payload (q.body f.payload (taken rest s)).2 := by
  rw [handleRequest_body h hk hn hg]
  exact placeReply_replied _ _ _ (fun e => absurd (hk.symm.trans e) hr)

/-- A request that the run state refuses (R170). -/
theorem handleRequest_gate {s : State} {f : Frame} {rest : List Frame} {q : RequestForm} {st : Status} (h : mayTake s f rest) (hk : f.kind = q.kind)
    (hn : f.payload.length = q.length) (hg : q.gate s.rc.run = some st) :
    s.whenLive (handleRequest q) = replied f [st.code] (taken rest s) := by
  have ht : (taken rest s).rc = s.rc := rfl
  rw [State.whenLive_live _ _ h.1, handleRequest, takeable_of_mayTake h]
  simp [hk, answerRequest, hn, dropFrame_of_mayTake h, ht, hg]
  exact placeReply_replied _ _ _ (fun _ => rfl)

/-- A request of a wrong length (R172). -/
theorem handleRequest_length {s : State} {f : Frame} {rest : List Frame} {q : RequestForm} (h : mayTake s f rest) (hk : f.kind = q.kind)
    (hn : f.payload.length ≠ q.length) :
    s.whenLive (handleRequest q) = replied f [0x02#8] (taken rest s) := by
  rw [State.whenLive_live _ _ h.1, handleRequest, takeable_of_mayTake h]
  simp [hk, answerRequest, hn, dropFrame_of_mayTake h]
  exact placeReply_replied _ _ _ (fun _ => rfl)

/-- A command whose kind is not that of the oldest held frame changes nothing. -/
theorem handleRequest_otherKind {s : State} {f : Frame} {rest : List Frame} {q : RequestForm} (h : mayTake s f rest) (hk : f.kind ≠ q.kind) :
    s.whenLive (handleRequest q) = s := by
  rw [State.whenLive_live _ _ h.1, handleRequest, takeable_of_mayTake h]
  simp [hk]

/-- A command without a frame to take changes nothing. -/
theorem handleRequest_idle {s : State} {q : RequestForm}
    (h : s.rc.handler ≠ .ready ∨ s.li.reply.isSome ∨ s.li.held = []) :
    s.whenLive (handleRequest q) = s := by
  have ht : takeable s = none := by
    unfold takeable
    split
    · rename_i hr
      rcases h with h | h | h
      · exact absurd hr.1 h
      · rw [hr.2] at h; cases h
      · rw [h]; rfl
    · rfl
  unfold State.whenLive handleRequest
  rw [ht]
  simp

@[simp] theorem taken_du (r : List Frame) (s : State) : (taken r s).du = s.du := rfl
@[simp] theorem taken_sc (r : List Frame) (s : State) : (taken r s).sc = s.sc := rfl
@[simp] theorem taken_ps (r : List Frame) (s : State) : (taken r s).ps = s.ps := rfl
@[simp] theorem taken_se (r : List Frame) (s : State) : (taken r s).se = s.se := rfl
@[simp] theorem taken_cs (r : List Frame) (s : State) : (taken r s).cs = s.cs := rfl
@[simp] theorem taken_it (r : List Frame) (s : State) : (taken r s).it = s.it := rfl
@[simp] theorem taken_gr (r : List Frame) (s : State) : (taken r s).gr = s.gr := rfl
@[simp] theorem taken_rc (r : List Frame) (s : State) : (taken r s).rc = s.rc := rfl
@[simp] theorem taken_now (r : List Frame) (s : State) : (taken r s).now = s.now := rfl
@[simp] theorem taken_boundary (r : List Frame) (s : State) : (taken r s).boundary = s.boundary := rfl
@[simp] theorem taken_pending (r : List Frame) (s : State) : (taken r s).pending = s.pending := rfl

/-! ## The fields of a payload -/

theorem u8_lt (p : List Byte) (i : Nat) : u8 p i < 256 := (p.getD i 0).isLt

/-- R156: a signed field is the two's complement of its four bytes. -/
theorem s32_eq (p : List Byte) (i : Nat) : s32 p i =
    (BitVec.ofNat 32 (16777216 * u8 p i + 65536 * u8 p (i + 1) + 256 * u8 p (i + 2) + u8 p (i + 3))).toInt := by
  have h0 := u8_lt p i
  have h1 := u8_lt p (i + 1)
  have h2 := u8_lt p (i + 2)
  have h3 := u8_lt p (i + 3)
  unfold s32 u16
  rw [BitVec.toInt_eq_toNat_cond, BitVec.toNat_ofNat, Nat.mod_eq_of_lt (by omega), show i + 2 + 1 = i + 3 from rfl]
  dsimp only
  split <;> split <;> omega

/-! ## The field checks -/

/-- One check put after others. -/
theorem lowestFailing_cons (c : Nat × Bool) (cs : List (Nat × Bool)) :
    lowestFailing (c :: cs) =
      if c.2 then some (match lowestFailing cs with
        | none => c.1
        | some b => min c.1 b)
      else lowestFailing cs := by
  have key : ∀ (cs : List (Nat × Bool)) (a : Nat),
      cs.foldl lowerIndex (some a) = some (match cs.foldl lowerIndex none with
        | none => a
        | some b => min a b) := by
    intro cs
    induction cs with
    | nil => intro a; rfl
    | cons d ds ih =>
      intro a
      rw [List.foldl_cons, List.foldl_cons]
      cases hd : d.2 with
      | false =>
        have skip : ∀ x, lowerIndex x d = x := fun x => by simp [lowerIndex, hd]
        rw [skip, skip]
        exact ih a
      | true =>
        rw [show lowerIndex (some a) d = some (min a d.1) from by simp [lowerIndex, hd],
          show lowerIndex none d = some d.1 from by simp [lowerIndex, hd], ih, ih]
        cases List.foldl lowerIndex none ds with
        | none => rfl
        | some b => simp [Nat.min_assoc]
  unfold lowestFailing
  rw [List.foldl_cons]
  cases hc : c.2 with
  | false => rw [show lowerIndex none c = none from by simp [lowerIndex, hc]]; simp
  | true => rw [show lowerIndex none c = some c.1 from by simp [lowerIndex, hc], key]; simp

/-- No index is named exactly when every check passes. -/
theorem lowestFailing_eq_none {cs : List (Nat × Bool)} : lowestFailing cs = none ↔ ∀ c ∈ cs, c.2 = false := by
  induction cs with
  | nil => simp [lowestFailing]
  | cons c cs ih =>
    rw [lowestFailing_cons]
    cases hc : c.2 with
    | false => simp [hc, ih]
    | true => simp [hc]

/-- The index named is the least of those whose check fails. -/
theorem lowestFailing_eq_some {cs : List (Nat × Bool)} {i : Nat} :
    lowestFailing cs = some i ↔ (i, true) ∈ cs ∧ ∀ j : Nat, (j, true) ∈ cs → i ≤ j := by
  induction cs generalizing i with
  | nil => simp [lowestFailing]
  | cons c cs ih =>
    rw [lowestFailing_cons]
    rcases c with ⟨n, b⟩
    cases b with
    | false => simp [ih]
    | true =>
      simp only [if_true, Option.some.injEq, List.mem_cons, Prod.mk.injEq, and_true]
      cases h : lowestFailing cs with
      | none =>
        have no : ∀ j, (j, true) ∉ cs := fun j hj => by
          have := lowestFailing_eq_none.1 h _ hj
          cases this
        simp only [no, or_false]
        exact ⟨fun e => ⟨e.symm, fun j hj => by omega⟩, fun e => e.1.symm⟩
      | some m =>
        obtain ⟨hm, hmin⟩ := ih.1 h
        dsimp only
        constructor
        · rintro rfl
          refine ⟨?_, fun j hj => ?_⟩
          · rcases Nat.le_total n m with h | h
            · exact .inl (Nat.min_eq_left h)
            · rw [Nat.min_eq_right h]; exact .inr hm
          · rcases hj with rfl | hj
            · exact Nat.min_le_left ..
            · exact Nat.le_trans (Nat.min_le_right ..) (hmin j hj)
        · rintro ⟨hi, hmin'⟩
          have h1 := hmin' n (.inl rfl)
          have h2 := hmin' m (.inr hm)
          rcases hi with rfl | hi
          · exact Nat.min_eq_left h2
          · rw [Nat.le_antisymm h2 (hmin i hi)] at h1 ⊢
            exact Nat.min_eq_right h1

theorem checked_none {cs : List (Nat × Bool)} {a : Answer × State} {s : State} (h : lowestFailing cs = none) :
    checked cs a s = a := by simp [checked, h]

theorem checked_some {cs : List (Nat × Bool)} {a : Answer × State} {s : State} {i : Nat}
    (h : lowestFailing cs = some i) : checked cs a s = (.range i, s) := by simp [checked, h]

/-! ## The codes of Section 12.2 -/

@[simp] theorem sideOfCode_sideCode (x : Side) : sideOfCode (sideCode x) = some x := by cases x <;> rfl
@[simp] theorem levelOfCode_code (l : HvLevel) : levelOfCode l.code = some l := by cases l <;> rfl
@[simp] theorem boolOfCode_boolCode (b : Bool) : boolOfCode (boolCode b) = some b := by cases b <;> rfl
@[simp] theorem scopeOfCode_code (c : Scope) : scopeOfCode c.code = some c := by cases c <;> rfl

theorem sideOfCode_none {n : Nat} : (sideOfCode n).isNone = decide (1 < n) := by
  match n with
  | 0 => rfl
  | 1 => rfl
  | n + 2 => simp [sideOfCode]

theorem boolOfCode_none {n : Nat} : (boolOfCode n).isNone = decide (1 < n) := by
  match n with
  | 0 => rfl
  | 1 => rfl
  | n + 2 => simp [boolOfCode]

theorem senseOfCode_none {n : Nat} : (senseOfCode n).isNone = decide (1 < n) := by
  match n with
  | 0 => rfl
  | 1 => rfl
  | n + 2 => simp [senseOfCode]

theorem zoneActionOfCode_none {n : Nat} : (zoneActionOfCode n).isNone = decide (1 < n) := by
  match n with
  | 0 => rfl
  | 1 => rfl
  | n + 2 => simp [zoneActionOfCode]

theorem levelOfCode_none {n : Nat} : (levelOfCode n).isNone = decide (3 < n) := by
  match n with
  | 0 => rfl
  | 1 => rfl
  | 2 => rfl
  | 3 => rfl
  | n + 4 => simp [levelOfCode]

theorem dispositionOfCode_none {n : Nat} : (dispositionOfCode n).isNone = decide (3 < n) := by
  match n with
  | 0 => rfl
  | 1 => rfl
  | 2 => rfl
  | 3 => rfl
  | n + 4 => simp [dispositionOfCode]

theorem roleOfCode_none {n : Nat} : (roleOfCode n).isNone = decide (3 < n) := by
  match n with
  | 0 => rfl
  | 1 => rfl
  | 2 => rfl
  | 3 => rfl
  | n + 4 => simp [roleOfCode]

theorem purposeOfCode_none {n : Nat} : (purposeOfCode n).isNone = decide (2 < n) := by
  match n with
  | 0 => rfl
  | 1 => rfl
  | 2 => rfl
  | n + 3 => simp [purposeOfCode]

theorem modeOfCode_none {n : Nat} : (modeOfCode n).isNone = decide (1 < n) := by
  match n with
  | 0 => rfl
  | 1 => rfl
  | n + 2 => simp [modeOfCode]

theorem conditionOfCode_none {n : Nat} : (conditionOfCode n).isNone = decide (3 < n) := by
  match n with
  | 0 => rfl
  | 1 => rfl
  | 2 => rfl
  | 3 => rfl
  | n + 4 => simp [conditionOfCode]

theorem purposeOfCode_reference {n : Nat} : purposeOfCode n = some .reference ↔ n = 2 := by
  match n with
  | 0 => simp [purposeOfCode]
  | 1 => simp [purposeOfCode]
  | 2 => simp [purposeOfCode]
  | n + 3 => simp [purposeOfCode]

theorem conditionOfCode_insideOutside {n : Nat} :
    (conditionOfCode n = some .inside ∨ conditionOfCode n = some .outside) ↔ n = 2 ∨ n = 3 := by
  match n with
  | 0 => simp [conditionOfCode]
  | 1 => simp [conditionOfCode]
  | 2 => simp [conditionOfCode]
  | 3 => simp [conditionOfCode]
  | n + 4 => simp [conditionOfCode]

/-! ## The side of a payload -/

theorem sideOfPayload_of {p : List Byte} {x : Side} (h : u8 p 0 = sideCode x) : sideOfPayload p = x := by
  unfold sideOfPayload; rw [h]; cases x <;> rfl

theorem sideCheck_of {p : List Byte} {x : Side} (h : u8 p 0 = sideCode x) : sideCheck p = (1, false) := by
  unfold sideCheck; rw [h]; cases x <;> rfl

theorem sideCheck_eq (p : List Byte) : sideCheck p = (1, decide (1 < u8 p 0)) := by
  unfold sideCheck; rw [sideOfCode_none]

end Sys2Proof.Machine
end

