-- ==== Sys2Proof/Laws/Plan.lean ====
section
/-! SUPPORT. What the Plan Store computes: the listening end (R49), the duration (R50), the plan time (R51), the supervised
channels (R93), and the shot and the checks of a WRITE_SHOT payload (R41 to R45, R188). -/
namespace Sys2Proof.Machine

/-! ## Listening end, duration, plan time -/

/-- A running maximum bounds its start and every value, and is one of them. -/
theorem foldl_maxOf {α : Type} (f : α → Nat) : ∀ (l : List α) (m : Nat),
    let top := l.foldl (fun m a => max m (f a)) m
    m ≤ top ∧ (∀ a ∈ l, f a ≤ top) ∧ (top = m ∨ ∃ a ∈ l, f a = top)
  | [], m => ⟨Nat.le_refl m, by simp, .inl rfl⟩
  | a :: l, m => by
    obtain ⟨h1, h2, h3⟩ := foldl_maxOf f l (max m (f a))
    refine ⟨Nat.le_trans (Nat.le_max_left ..) h1, fun b hb => ?_, ?_⟩
    · rcases List.mem_cons.1 hb with rfl | hb
      · exact Nat.le_trans (Nat.le_max_right ..) h1
      · exact h2 b hb
    · rcases h3 with h3 | ⟨b, hb, h3⟩
      · rcases Nat.le_total (f a) m with h | h
        · exact .inl (h3.trans (Nat.max_eq_left h))
        · exact .inr ⟨a, List.mem_cons_self, (h3.trans (Nat.max_eq_right h)).symm⟩
      · exact .inr ⟨b, List.mem_cons_of_mem a hb, h3⟩

/-- R49: the listening end is the greatest window end. -/
theorem listeningEnd_spec (gates : List Gate) :
    (∀ g ∈ gates, g.windowEnd gates ≤ listeningEnd gates) ∧
    (gates ≠ [] → ∃ g ∈ gates, g.windowEnd gates = listeningEnd gates) := by
  obtain ⟨-, h2, h3⟩ := foldl_maxOf (fun g : Gate => g.windowEnd gates) gates 0
  refine ⟨h2, fun hne => ?_⟩
  rcases h3 with h3 | h3
  · obtain ⟨g, hg⟩ := List.exists_mem_of_ne_nil gates hne
    exact ⟨g, hg, Nat.le_antisymm (h2 g hg) (by unfold listeningEnd; rw [h3]; exact Nat.zero_le _)⟩
  · exact h3

/-- R49: the end of the REFERENCE window, when all REFERENCE gates have one end. -/
theorem referenceEnd_eq {gates : List Gate} {n : Nat}
    (all : ∀ r ∈ gates, r.purpose = .reference → r.start + r.width = n)
    (one : ∃ r ∈ gates, r.purpose = .reference) : referenceEnd gates = n := by
  unfold referenceEnd
  cases h : gates.find? (fun g => decide (g.purpose = .reference)) with
  | none =>
    obtain ⟨r, hr, hp⟩ := one
    exact absurd (decide_eq_true hp) (List.find?_eq_none.1 h r hr)
  | some r =>
    have hp := List.find?_some (p := fun g : Gate => decide (g.purpose = .reference)) h
    exact all r (List.mem_of_find?_eq_some h) (of_decide_eq_true hp)

/-- R50: rounding up to whole µs. -/
theorem durationWith_spec (sh : Shot) (v : Profile) :
    ∃ us : Nat, sh.durationWith v = us + v.recovery ∧ v.preTrigger + v.pulse + listeningEnd sh.gates ≤ 20 * us ∧
      20 * us < v.preTrigger + v.pulse + listeningEnd sh.gates + 20 := by
  refine ⟨_, rfl, ?_, ?_⟩ <;> simp only [Config.tuPerUs] <;> omega

/-- R51: the plan time is the greatest of the four sums. -/
theorem planTimeOf_spec (shots : List PlannedShot) :
    (∀ r : Nat, r < 4 → residueTime shots r ≤ planTimeOf shots) ∧
    ∃ r : Nat, r < 4 ∧ planTimeOf shots = residueTime shots r := by
  unfold planTimeOf
  refine ⟨fun r hr => ?_, ?_⟩
  · have : r = 0 ∨ r = 1 ∨ r = 2 ∨ r = 3 := by omega
    rcases this with rfl | rfl | rfl | rfl <;> omega
  · by_cases h0 : residueTime shots 1 ≤ residueTime shots 0 ∧ residueTime shots 2 ≤ residueTime shots 0 ∧
      residueTime shots 3 ≤ residueTime shots 0
    · exact ⟨0, by decide, by omega⟩
    · by_cases h1 : residueTime shots 2 ≤ residueTime shots 1 ∧ residueTime shots 3 ≤ residueTime shots 1
      · exact ⟨1, by decide, by omega⟩
      · by_cases h2 : residueTime shots 3 ≤ residueTime shots 2
        · exact ⟨2, by decide, by omega⟩
        · exact ⟨3, by decide, by omega⟩

/-! ## Supervision -/

/-- R93: the channels that a list supervises. -/
theorem ShotList.supervised_iff (l : ShotList) (ch : Channel) : l.supervised.getLsbD ch.val = true ↔
    ∃ p ∈ l.shots, p.shot.rx = ch ∧ ∃ g ∈ p.shot.gates, g.purpose = .coupling := by
  unfold ShotList.supervised
  rw [maskOf_getLsbD]
  simp

/-! ## WRITE_SHOT -/

/-- The code of a field that names one. -/
theorem purposeOfCode_code {n : Nat} (h : n ≤ 2) : ((purposeOfCode n).getD .detect).code = n := by
  have : n = 0 ∨ n = 1 ∨ n = 2 := by omega
  rcases this with rfl | rfl | rfl <;> rfl

theorem modeOfCode_code {n : Nat} (h : n ≤ 1) : ((modeOfCode n).getD .absolute).code = n := by
  have : n = 0 ∨ n = 1 := by omega
  rcases this with rfl | rfl <;> rfl

/-- A field that lies outside a range. -/
theorem outside_eq (lo hi v : Nat) : outside lo hi v = decide (v < lo ∨ hi < v) := by simp [outside]

/-- The gates of a payload, when their number is one of 0 to 4. -/
theorem gatesOfPayload_get {p : List Byte} {g : Nat} {gate : Gate} (h : (gatesOfPayload p)[g]? = some gate) :
    g < gatesInUse p ∧ gate = gateOfPayload p g := by
  unfold gatesOfPayload at h
  rw [List.getElem?_map] at h
  by_cases hg : g < gatesInUse p
  · rw [List.getElem?_range hg] at h
    exact ⟨hg, (Option.some.inj h).symm⟩
  · rw [List.getElem?_eq_none (by rw [List.length_range]; omega)] at h
    cases h

/-- R44: a payload whose fields all pass has them all in range. -/
theorem shotFieldChecks_pass {p : List Byte} {count : Nat} (h : lowestFailing (shotFieldChecks p count) = none) :
    u8 p 0 ≤ 1 ∧ u8 p 1 ≤ 15 ∧ u8 p 1 ≤ count ∧ u8 p 2 ≤ 11 ∧ u8 p 3 ≤ 11 ∧ u8 p 4 ≤ 160 ∧ u8 p 5 ≤ 3 ∧
    cadenceOk (u8 p 6) = true ∧ u8 p 7 < u8 p 6 ∧ u8 p 8 ≤ 4 ∧
    ∀ g : Nat, g < u8 p 8 → ∀ c ∈ gateFieldChecks p g, c.2 = false := by
  rw [lowestFailing_eq_none] at h
  unfold shotFieldChecks at h
  have field := fun c hc => h c (List.mem_append_left _ hc)
  simp only [List.forall_mem_cons, sideCheck_eq, outside_eq, decide_eq_false_iff_not, Bool.or_eq_false_iff,
    Bool.not_eq_false', not_or, Nat.not_lt] at field
  obtain ⟨h0, ⟨h1, h1'⟩, h2, h3, h4, h5, h6, h7, h8, -⟩ := field
  rw [h6] at h7
  simp only [if_true, Nat.not_le] at h7
  refine ⟨h0, h1, h1', h2.2, h3.2, h4.2, h5.2, h6, h7, h8, fun g hg c hc => ?_⟩
  refine h c (List.mem_append_right _ (List.mem_flatMap.2 ⟨g, List.mem_range.2 ?_, hc⟩))
  unfold gatesInUse
  rwa [if_pos h8]

/-- R44: the fields of a gate whose checks all pass. -/
theorem gateFieldChecks_pass {p : List Byte} {g : Nat} (h : ∀ c ∈ gateFieldChecks p g, c.2 = false) :
    u8 p (9 + 9 * g) ≤ 2 ∧ u8 p (10 + 9 * g) ≤ 1 := by
  have hp := h _ List.mem_cons_self
  have hm := h _ (List.mem_cons_of_mem _ List.mem_cons_self)
  simp only [purposeOfCode_none, modeOfCode_none, decide_eq_false_iff_not, Nat.not_lt, gateOffset] at hp hm
  exact ⟨hp, (by rwa [show 10 + 9 * g = 9 + 9 * g + 1 by omega])⟩

/-- R41: the cadences. -/
theorem cadenceOk_iff {n : Nat} : cadenceOk n = true ↔ n = 1 ∨ n = 2 ∨ n = 4 := by simp [cadenceOk, or_assoc]

/-- R44: the failing checks of a gate record. -/
theorem mem_gateFieldChecks {p : List Byte} {g i : Nat} : (i, true) ∈ gateFieldChecks p g ↔
    (i = 10 + 7 * g ∧ 2 < u8 p (9 + 9 * g)) ∨ (i = 11 + 7 * g ∧ 1 < u8 p (10 + 9 * g)) ∨
    (i = 12 + 7 * g ∧ 3999 < u16 p (11 + 9 * g)) ∨
    (i = 13 + 7 * g ∧ (u16 p (13 + 9 * g) < 1 ∨ 4000 < u16 p (13 + 9 * g))) ∨
    (i = 14 + 7 * g ∧ (u8 p (15 + 9 * g) < 1 ∨ 199 < u8 p (15 + 9 * g))) ∨
    (i = 15 + 7 * g ∧ (u8 p (16 + 9 * g) < 1 ∨ 199 < u8 p (16 + 9 * g))) ∨
    (i = 16 + 7 * g ∧ u8 p (9 + 9 * g) ≠ 2 ∧ 3 < u8 p (17 + 9 * g)) := by
  have o : ∀ k, 9 + 9 * g + k = 9 + k + 9 * g := fun k => by omega
  have f : ∀ k, 10 + 7 * g + k = 10 + k + 7 * g := fun k => by omega
  unfold gateFieldChecks gateOffset gateField
  simp only [o, f, outside_eq, purposeOfCode_none, modeOfCode_none, conditionOfCode_none, List.mem_cons, Prod.mk.injEq,
    List.not_mem_nil, or_false, eq_comm (a := true), decide_eq_true_eq, Bool.and_eq_true, ne_eq, purposeOfCode_reference,
    Nat.not_lt_zero, false_or]

/-- R44: the failing checks of a WRITE_SHOT payload. -/
theorem mem_shotFieldChecks {p : List Byte} {count i : Nat} : (i, true) ∈ shotFieldChecks p count ↔
    (i = 1 ∧ 1 < u8 p 0) ∨ (i = 2 ∧ (15 < u8 p 1 ∨ count < u8 p 1)) ∨ (i = 3 ∧ 11 < u8 p 2) ∨
    (i = 4 ∧ 11 < u8 p 3) ∨ (i = 5 ∧ 160 < u8 p 4) ∨ (i = 6 ∧ 3 < u8 p 5) ∨ (i = 7 ∧ cadenceOk (u8 p 6) = false) ∨
    (i = 8 ∧ (if cadenceOk (u8 p 6) then u8 p 6 else 1) ≤ u8 p 7) ∨ (i = 9 ∧ 4 < u8 p 8) ∨
    (u8 p 8 ≤ 4 ∧ ∃ g : Nat, g < u8 p 8 ∧ (i, true) ∈ gateFieldChecks p g) := by
  unfold shotFieldChecks
  simp only [List.mem_append, List.mem_flatMap, List.mem_range, sideCheck_eq, outside_eq, List.mem_cons, Prod.mk.injEq,
    List.not_mem_nil, or_false, eq_comm (a := true), decide_eq_true_eq, Bool.or_eq_true, Bool.not_eq_true', Nat.not_lt_zero, false_or, or_assoc]
  have : (∃ g, g < gatesInUse p ∧ (i, true) ∈ gateFieldChecks p g) ↔
      (u8 p 8 ≤ 4 ∧ ∃ g : Nat, g < u8 p 8 ∧ (i, true) ∈ gateFieldChecks p g) := by
    unfold gatesInUse
    by_cases h : u8 p 8 ≤ 4 <;> simp [h]
  rw [this]

/-- R45: the failing checks that relate one field to another. -/
theorem mem_relationChecks {gs : List Gate} {i : Nat} : (i, true) ∈ relationChecks gs ↔
    ∃ (n : Nat) (g : Gate), gs[n]? = some g ∧ (i, true) ∈ gateRelationChecks (gs.take n) n g := by
  unfold relationChecks
  simp only [List.mem_flatMap, Prod.exists]
  constructor
  · rintro ⟨g, n, h, hi⟩
    exact ⟨n, g, List.mem_zipIdx_iff_getElem?.1 h, hi⟩
  · rintro ⟨n, g, h, hi⟩
    exact ⟨g, n, List.mem_zipIdx_iff_getElem?.2 h, hi⟩


/-- R43: the fields are looked at one by one first, then against each other (log 11). -/
theorem writeShotFailing_eq_some {p : List Byte} {count i : Nat} : writeShotFailing p count = some i ↔
    lowestFailing (shotFieldChecks p count) = some i ∨
    (lowestFailing (shotFieldChecks p count) = none ∧ lowestFailing (relationChecks (gatesOfPayload p)) = some i) := by
  unfold writeShotFailing
  cases lowestFailing (shotFieldChecks p count) <;> simp

theorem writeShotFailing_eq_none {p : List Byte} {count : Nat} : writeShotFailing p count = none ↔
    lowestFailing (shotFieldChecks p count) = none ∧ lowestFailing (relationChecks (gatesOfPayload p)) = none := by
  unfold writeShotFailing
  cases lowestFailing (shotFieldChecks p count) <;> simp

/-- A gate of a payload that is in use. -/
theorem gatesOfPayload_getElem? {p : List Byte} (h : u8 p 8 ≤ 4) {g : Nat} (hg : g < u8 p 8) :
    (gatesOfPayload p)[g]? = some (gateOfPayload p g) := by
  unfold gatesOfPayload gatesInUse
  rw [if_pos h, List.getElem?_map, List.getElem?_range hg]
  rfl

/-- The gates of lower number. -/
theorem any_before {p : List Byte} (h : u8 p 8 ≤ 4) {g : Nat} (hg : g < u8 p 8) (q : Gate → Bool) :
    ((gatesOfPayload p).take g).any q = true ↔ ∃ k : Nat, k < g ∧ q (gateOfPayload p k) = true := by
  rw [List.any_eq_true]
  constructor
  · rintro ⟨a, ha, hq⟩
    obtain ⟨k, hk⟩ := List.mem_iff_getElem?.1 ha
    rw [List.getElem?_take] at hk
    split at hk
    · rename_i hlt
      rw [gatesOfPayload_getElem? h (by omega)] at hk
      cases hk
      exact ⟨k, hlt, hq⟩
    · cases hk
  · rintro ⟨k, hk, hq⟩
    refine ⟨gateOfPayload p k, List.mem_iff_getElem?.2 ⟨k, ?_⟩, hq⟩
    rw [List.getElem?_take, if_pos hk]
    exact gatesOfPayload_getElem? h (by omega)

/-- R188: the numbers of a gate. -/
theorem gateOfPayload_fields (p : List Byte) (g : Nat) :
    (gateOfPayload p g).start = u16 p (11 + 9 * g) ∧ (gateOfPayload p g).width = u16 p (13 + 9 * g) ∧
    (gateOfPayload p g).t1 = u8 p (15 + 9 * g) ∧ (gateOfPayload p g).t2 = u8 p (16 + 9 * g) ∧
    (gateOfPayload p g).conditionCode.toNat = u8 p (17 + 9 * g) := by
  have o : ∀ k, 9 + 9 * g + k = 9 + k + 9 * g := fun k => by omega
  unfold gateOfPayload gateOffset
  simp only [o]
  exact ⟨trivial, trivial, trivial, trivial, rfl⟩

/-- R188: the purpose and the mode of a gate whose fields are in range. -/
theorem gateOfPayload_codes {p : List Byte} {g : Nat} (hp : u8 p (9 + 9 * g) ≤ 2) (hm : u8 p (10 + 9 * g) ≤ 1) :
    ((gateOfPayload p g).purpose = .coupling ↔ u8 p (9 + 9 * g) = 1) ∧
    ((gateOfPayload p g).purpose = .reference ↔ u8 p (9 + 9 * g) = 2) ∧
    ((gateOfPayload p g).mode = .absolute ↔ u8 p (10 + 9 * g) = 0) ∧
    ((gateOfPayload p g).mode = .follow ↔ u8 p (10 + 9 * g) = 1) := by
  unfold gateOfPayload gateOffset
  simp only [show 9 + 9 * g + 1 = 10 + 9 * g by omega]
  generalize u8 p (9 + 9 * g) = a at *
  generalize u8 p (10 + 9 * g) = b at *
  have ha : a = 0 ∨ a = 1 ∨ a = 2 := by omega
  have hb : b = 0 ∨ b = 1 := by omega
  rcases ha with rfl | rfl | rfl <;> rcases hb with rfl | rfl <;> decide

/-- R45: the failing relations of a payload whose fields are in range. -/
theorem mem_relationChecks_payload {p : List Byte} (h8 : u8 p 8 ≤ 4)
    (codes : ∀ g : Nat, g < u8 p 8 → u8 p (9 + 9 * g) ≤ 2 ∧ u8 p (10 + 9 * g) ≤ 1) (i : Nat) :
    (i, true) ∈ relationChecks (gatesOfPayload p) ↔ ∃ g : Nat, g < u8 p 8 ∧
      ((i = 10 + 7 * g ∧ u8 p (9 + 9 * g) = 2 ∧ ∃ h : Nat, h < g ∧ u8 p (9 + 9 * h) = 2) ∨
        (i = 10 + 7 * g ∧ u8 p (9 + 9 * g) = 1 ∧ ∃ h : Nat, h < g ∧ u8 p (9 + 9 * h) = 1) ∨
        (i = 11 + 7 * g ∧ u8 p (10 + 9 * g) = 1 ∧
          ¬∃ h : Nat, h < g ∧ u8 p (9 + 9 * h) = 2 ∧ u8 p (10 + 9 * h) = 0) ∨
        (i = 13 + 7 * g ∧ u8 p (10 + 9 * g) = 0 ∧ 4000 < u16 p (11 + 9 * g) + u16 p (13 + 9 * g)) ∨
        (i = 15 + 7 * g ∧ u8 p (9 + 9 * g) ≠ 2 ∧ (u8 p (17 + 9 * g) = 2 ∨ u8 p (17 + 9 * g) = 3) ∧
          u8 p (16 + 9 * g) ≤ u8 p (15 + 9 * g))) := by
  rw [mem_relationChecks]
  have gate : ∀ g : Nat, g < u8 p 8 →
      ((i, true) ∈ gateRelationChecks ((gatesOfPayload p).take g) g (gateOfPayload p g) ↔
      ((i = 10 + 7 * g ∧ u8 p (9 + 9 * g) = 2 ∧ ∃ h : Nat, h < g ∧ u8 p (9 + 9 * h) = 2) ∨
        (i = 10 + 7 * g ∧ u8 p (9 + 9 * g) = 1 ∧ ∃ h : Nat, h < g ∧ u8 p (9 + 9 * h) = 1) ∨
        (i = 11 + 7 * g ∧ u8 p (10 + 9 * g) = 1 ∧
          ¬∃ h : Nat, h < g ∧ u8 p (9 + 9 * h) = 2 ∧ u8 p (10 + 9 * h) = 0) ∨
        (i = 13 + 7 * g ∧ u8 p (10 + 9 * g) = 0 ∧ 4000 < u16 p (11 + 9 * g) + u16 p (13 + 9 * g)) ∨
        (i = 15 + 7 * g ∧ u8 p (9 + 9 * g) ≠ 2 ∧ (u8 p (17 + 9 * g) = 2 ∨ u8 p (17 + 9 * g) = 3) ∧
          u8 p (16 + 9 * g) ≤ u8 p (15 + 9 * g)))) := by
    intro g hg
    obtain ⟨c1, c2, c3, c4⟩ := gateOfPayload_codes (codes g hg).1 (codes g hg).2
    have lower : ∀ (q : Gate → Bool) (r : Nat → Prop),
        (∀ k : Nat, k < g → (q (gateOfPayload p k) = true ↔ r k)) →
        (((gatesOfPayload p).take g).any q = true ↔ ∃ k : Nat, k < g ∧ r k) := fun q r h => by
      rw [any_before h8 hg]
      exact ⟨fun ⟨k, hk, e⟩ => ⟨k, hk, (h k hk).1 e⟩, fun ⟨k, hk, e⟩ => ⟨k, hk, (h k hk).2 e⟩⟩
    have ofGate := fun (k : Nat) (hk : k < g) =>
      gateOfPayload_codes (codes k (by omega)).1 (codes k (by omega)).2
    have l1 := lower (fun h => h.purpose = .reference) (fun k => u8 p (9 + 9 * k) = 2)
      (fun k hk => by rw [decide_eq_true_eq]; exact (ofGate k hk).2.1)
    have l2 := lower (fun h => h.purpose = .coupling) (fun k => u8 p (9 + 9 * k) = 1)
      (fun k hk => by rw [decide_eq_true_eq]; exact (ofGate k hk).1)
    have l3 := lower (fun h => h.purpose = .reference && h.mode = .absolute)
      (fun k => u8 p (9 + 9 * k) = 2 ∧ u8 p (10 + 9 * k) = 0)
      (fun k hk => by
        rw [Bool.and_eq_true, decide_eq_true_eq, decide_eq_true_eq]
        exact and_congr (ofGate k hk).2.1 (ofGate k hk).2.2.1)
    obtain ⟨hs, hw, h1, h2, hc⟩ := gateOfPayload_fields p g
    have f : ∀ k, 10 + 7 * g + k = 10 + k + 7 * g := fun k => by omega
    unfold gateRelationChecks gateField Gate.usesT2
    simp only [f, List.mem_cons, Prod.mk.injEq, List.not_mem_nil, or_false, eq_comm (a := true), Bool.and_eq_true,
      decide_eq_true_eq, Bool.not_eq_true', ← Bool.not_eq_true, l1, l2, l3, c1, c2, c3, c4, hs, hw, h1, h2, hc,
      Config.traceEnd, Bool.or_eq_true, conditionOfCode_insideOutside, ne_eq, and_assoc]
  constructor
  · rintro ⟨n, g, hg, hi⟩
    obtain ⟨hlt, rfl⟩ := gatesOfPayload_get hg
    have hlt' : n < u8 p 8 := by unfold gatesInUse at hlt; rwa [if_pos h8] at hlt
    exact ⟨n, hlt', (gate n hlt').1 hi⟩
  · rintro ⟨g, hg, hi⟩
    exact ⟨g, _, gatesOfPayload_getElem? h8 hg, (gate g hg).2 hi⟩

end Sys2Proof.Machine
end

