-- ==== Sys2Proof/Laws/RunControl.lean ====
section
/-! SUPPORT. The steps of the drain (R138, R176, R178, R179): their tests, and what the end of the drain changes. -/
namespace Sys2Proof.Machine

/-! ## Tests -/

theorem Se.isIdle_iff (e : Se) : e.isIdle = true ↔ e.firing = none ∧ e.finished = [] := by
  simp [Se.isIdle]

theorem enginesIdle_iff (s : State) :
    enginesIdle s = true ↔ ∀ x : Side, (s.se.get x).firing = none ∧ (s.se.get x).finished = [] := by
  unfold enginesIdle
  rw [Bool.and_eq_true, Se.isIdle_iff, Se.isIdle_iff]
  exact ⟨fun h x => by cases x <;> first | exact h.1 | exact h.2, fun h => ⟨h .a, h .b⟩⟩

theorem Gr.noneOpen_iff (g : Gr) : g.noneOpen = true ↔ ∀ c : GapCause, g.gaps.get c = none := by
  unfold Gr.noneOpen
  rw [List.all_eq_true]
  exact ⟨fun h c => Option.isNone_iff_eq_none.1 (h c (by cases c <;> decide)),
    fun h c _ => Option.isNone_iff_eq_none.2 (h c)⟩

/-- R178: the drain waits in LISTS no longer. -/
theorem drainTest_ready {s : State} (h : s.rc.run = .stopping) (hd : s.rc.drain = .lists) (hi : enginesIdle s = true) :
    drainTest s = releasePhase s := by simp [drainTest, listsDone, h, hd, hi]

theorem drainTest_waits {s : State} (h : s.rc.run ≠ .stopping ∨ s.rc.drain ≠ .lists ∨ enginesIdle s = false) :
    drainTest s = s := by
  unfold drainTest listsDone
  rw [if_neg]
  simp only [Bool.and_eq_true, decide_eq_true_eq]
  rintro ⟨⟨h1, h2⟩, h3⟩
  rcases h with h | h | h
  · exact h h1
  · exact h h2
  · rw [h] at h3; cases h3

/-- R138, R179: the release is complete. -/
theorem drainEndTest_complete {s : State} (h : s.rc.run = .stopping) (hd : s.rc.drain = .release)
    (hi : enginesIdle s = true) (he : s.it.empty = true) : drainEndTest s = drainEnd s := by
  simp [drainEndTest, drainComplete, h, hd, hi, he]

theorem drainEndTest_waits {s : State}
    (h : s.rc.run ≠ .stopping ∨ s.rc.drain ≠ .release ∨ enginesIdle s = false ∨ s.it.empty = false) :
    drainEndTest s = s := by
  unfold drainEndTest drainComplete
  rw [if_neg]
  simp only [Bool.and_eq_true, decide_eq_true_eq]
  rintro ⟨⟨⟨h1, h2⟩, h3⟩, h4⟩
  rcases h with h | h | h | h
  · exact h h1
  · exact h h2
  · rw [h] at h4; cases h4
  · rw [h] at h3; cases h3

/-! ## The link during the end of the drain -/

/-- Only the MOTION, RUNSTATE and GAP slots, and the ordinals they take, have changed. -/
def Li.SlotsOnly (l m : Li) : Prop :=
  m = { l with motion := m.motion, runstate := m.runstate, gap := m.gap, ordinal := m.ordinal }

theorem Li.SlotsOnly.trans {l m n : Li} (h : l.SlotsOnly m) (k : m.SlotsOnly n) : l.SlotsOnly n := by
  unfold Li.SlotsOnly at *
  rw [k, h]

theorem Li.placeGap_slotsOnly (x : Side) (g : GapRange) (l : Li) :
    l.SlotsOnly (l.placeGap x g) ∧ (l.placeGap x g).motion = l.motion := by
  unfold Li.placeGap
  split <;> exact ⟨rfl, rfl⟩

theorem foldl_placeGap_slotsOnly (x : Side) : ∀ (gs : List GapRange) (l : Li),
    l.SlotsOnly (gs.foldl (fun l g => l.placeGap x g) l) ∧ (gs.foldl (fun l g => l.placeGap x g) l).motion = l.motion
  | [], _ => ⟨rfl, rfl⟩
  | g :: gs, l => by
    have h := Li.placeGap_slotsOnly x g l
    have k := foldl_placeGap_slotsOnly x gs (l.placeGap x g)
    exact ⟨h.1.trans k.1, k.2.trans h.2⟩

theorem Li.placeRunstate_slotsOnly (c : RunCauses) (w : Option (Int × SwapPlace)) (r : RunstateReport) (l : Li) :
    l.SlotsOnly (l.placeRunstate c w r) ∧ (l.placeRunstate c w r).motion = l.motion := by
  unfold Li.placeRunstate
  split <;> exact ⟨rfl, rfl⟩

/-- R151: what one recorder's closing changes. -/
theorem drainGaps_frame (x : Side) (s : State) : ∃ (g : Gr) (l : Li),
    drainGaps x s = { s with gr := s.gr.set x g, li := l } ∧ s.li.SlotsOnly l ∧ l.motion = s.li.motion := by
  refine ⟨_, _, rfl, ?_⟩
  rw [Recorder.drain_li]
  exact foldl_placeGap_slotsOnly x _ _

/-- R151: what the closing of both recorders changes. -/
theorem drainBothGaps_frame (s : State) : ∃ (g : PerSide Gr) (l : Li) (n : Nat),
    drainBothGaps s = { s with gr := g, li := l, free := n } ∧ s.li.SlotsOnly l ∧ l.motion = s.li.motion := by
  have both : ∀ x y : Side, ∃ (g : PerSide Gr) (l : Li),
      drainGaps y (drainGaps x s) = { s with gr := g, li := l } ∧ s.li.SlotsOnly l ∧ l.motion = s.li.motion := by
    intro x y
    obtain ⟨g, l, h, h1, h2⟩ := drainGaps_frame x s
    obtain ⟨g', l', k, k1, k2⟩ := drainGaps_frame y (drainGaps x s)
    rw [h] at k k1 k2
    exact ⟨_, l', by rw [h, k], h1.trans k1, k2.trans h2⟩
  unfold drainBothGaps
  split
  · split
    · obtain ⟨g, l, h, h1, h2⟩ := both .a .b
      exact ⟨g, l, _, by rw [h], h1, h2⟩
    · obtain ⟨g, l, h, h1, h2⟩ := both .b .a
      exact ⟨g, l, _, by rw [h], h1, h2⟩
  · obtain ⟨g, l, h, h1, h2⟩ := both .a .b
    exact ⟨g, l, s.free, h, h1, h2⟩

/-- What a change of the Distance Unit changes. -/
theorem commitDu_frame (latch : MotionCauses) (d : Du) (s : State) : ∃ l : Li,
    commitDu latch d s = { s with du := d, li := l } ∧ s.li.SlotsOnly l := by
  unfold commitDu
  dsimp only
  split
  · refine ⟨_, rfl, ?_⟩
    show s.li.SlotsOnly (Li.placeMotion _ _ s.li)
    unfold Li.placeMotion
    split <;> rfl
  · exact ⟨s.li, rfl, rfl⟩

/-- What a swap changes. -/
theorem swapPlans_frame (s : State) : ∃ (b : Bool) (c : PerSide Cs) (l : Li),
    swapPlans s = { s with
      du := { s.du with fast := b }
      ps := ⟨s.ps.staged, s.ps.active, s.ps.generation + 1, false⟩
      cs := c
      li := l } ∧ s.li.SlotsOnly l := by
  obtain ⟨l, h, h1⟩ := commitDu_frame noLatch
    { s.du with fast := fastOf s.du.period (max s.ps.staged.a.planTime s.ps.staged.b.planTime) } s
  exact ⟨_, (swapPlans s).cs, l, (swapPlans_eq s).trans (by rw [h]), h1⟩

/-- R31: what the pending records change. -/
theorem recordsTakeEffect_frame (s : State) : ∃ (v : PerSide Sc) (c : PerSide Cs),
    recordsTakeEffect s = { s with sc := v, cs := c } ∧
    (∀ x : Side, v.get x = { s.sc.get x with
      channels := (v.get x).channels, pendingRecords := (v.get x).pendingRecords }) ∧
    ∀ (x : Side) (ch : Channel), (v.get x).pendingRecords[ch] = none := by
  obtain ⟨u, h, k⟩ := recordsTakeEffect_taken s
  have hu := h.other (y := .b) (by decide)
  have ht := k.other (y := .a) (by decide)
  refine ⟨(recordsTakeEffect s).sc, (recordsTakeEffect s).cs, ?_, fun x => ?_, fun x ch => ?_⟩
  · conv => lhs; rw [k.frame, h.frame]
    simp only [PerSide.get_b, PerSide.set_b, PerSide.set_a, PerSide.get_a] at hu ht ⊢
    rw [← ht.1, ← ht.2]
  · cases x with
    | a => rw [ht.1]; exact h.side
    | b => rw [← hu.1]; exact k.side
  · cases x with
    | a => rw [ht.1]; exact h.gone ch (List.mem_finRange ch)
    | b => exact k.gone ch (List.mem_finRange ch)

/-- R180: what the RUNSTATE trigger changes. -/
theorem placeRunstate_frame (causes : RunCauses) (swap : Option (Int × SwapPlace)) (s : State) : ∃ l : Li,
    placeRunstate causes swap s = { s with li := l } ∧ s.li.SlotsOnly l ∧ l.motion = s.li.motion :=
  ⟨_, rfl, Li.placeRunstate_slotsOnly ..⟩

/-! ## The end of the drain -/

/-- R57: the pending swap, if there is one. -/
theorem swapIfPending_frame (s : State) : ∃ (b : Bool) (p : Ps) (c : PerSide Cs) (l : Li),
    (if s.ps.swapPending then swapPlans s else s) =
      { s with du := { s.du with fast := b }, ps := p, cs := c, li := l } ∧
    p = (if s.ps.swapPending then ⟨s.ps.staged, s.ps.active, s.ps.generation + 1, false⟩ else s.ps) ∧
    s.li.SlotsOnly l ∧ (s.ps.swapPending = false → b = s.du.fast ∧ l.motion = s.li.motion) := by
  cases h : s.ps.swapPending with
  | false => exact ⟨s.du.fast, s.ps, s.cs, s.li, rfl, rfl, rfl, fun _ => ⟨rfl, rfl⟩⟩
  | true =>
    obtain ⟨b, c, l, k, k1⟩ := swapPlans_frame s
    exact ⟨b, _, c, l, k, rfl, k1, fun e => nomatch e⟩

/-- R179: the end of the drain, step by step. -/
theorem drainEnd_eq (s : State) : drainEnd s =
    placeRunstate ⟨false, false, true, s.ps.swapPending, false⟩
      (if s.ps.swapPending then some (s.du.hwm, SwapPlace.idleEntry) else none)
      (recordsTakeEffect
        (if s.ps.swapPending then swapPlans { drainBothGaps s with rc := { s.rc with run := .idle, drain := .none } }
          else { drainBothGaps s with rc := { s.rc with run := .idle, drain := .none } })) := by
  obtain ⟨g, l, n, h, -, -⟩ := drainBothGaps_frame s
  unfold drainEnd
  rw [h]
  dsimp only [State.setRc]
  cases s.ps.swapPending with
  | false => rfl
  | true =>
    simp only [if_true]
    generalize hu : ({ s with gr := g, li := l, rc := { s.rc with run := .idle, drain := .none }, free := n } : State) = u
    have hd : u.du = s.du := by rw [← hu]
    obtain ⟨b, c, l', k, -⟩ := swapPlans_frame u
    obtain ⟨v, c', e, -, -⟩ := recordsTakeEffect_frame (swapPlans u)
    rw [e, k, hd]
    rfl

/-- R179: what the end of the drain changes. -/
theorem drainEnd_frame (s : State) :
    ∃ (b : Bool) (v : PerSide Sc) (p : Ps) (c : PerSide Cs) (g : PerSide Gr) (l : Li) (n : Nat),
    drainEnd s = { s with
      du := { s.du with fast := b }
      sc := v
      ps := p
      cs := c
      gr := g
      li := l
      rc := { s.rc with run := .idle, drain := .none }
      free := n } ∧
    (∀ x : Side, v.get x = { s.sc.get x with
      channels := (v.get x).channels, pendingRecords := (v.get x).pendingRecords }) ∧
    (∀ (x : Side) (ch : Channel), (v.get x).pendingRecords[ch] = none) ∧
    p = (if s.ps.swapPending then ⟨s.ps.staged, s.ps.active, s.ps.generation + 1, false⟩ else s.ps) ∧
    s.li.SlotsOnly l ∧ (s.ps.swapPending = false → b = s.du.fast ∧ l.motion = s.li.motion) := by
  obtain ⟨g, l, n, h, h1, h2⟩ := drainBothGaps_frame s
  rw [drainEnd_eq, h]
  obtain ⟨b, p, c, l', k, kp, k1, k2⟩ :=
    swapIfPending_frame { s with gr := g, li := l, rc := { s.rc with run := .idle, drain := .none }, free := n }
  dsimp only at k kp k1 k2
  rw [k]
  generalize hu : ({ s with
    du := { s.du with fast := b }
    ps := p
    cs := c
    gr := g
    li := l'
    rc := { s.rc with run := .idle, drain := .none }
    free := n } : State) = u
  obtain ⟨v, c', e, e1, e2⟩ := recordsTakeEffect_frame u
  rw [e]
  subst hu
  obtain ⟨l'', m, m1, m2⟩ := placeRunstate_frame ⟨false, false, true, s.ps.swapPending, false⟩
    (if s.ps.swapPending then some (s.du.hwm, SwapPlace.idleEntry) else none)
    ({ s with
      du := { s.du with fast := b }
      sc := v
      ps := p
      cs := c'
      gr := g
      li := l'
      rc := { s.rc with run := .idle, drain := .none }
      free := n } : State)
  exact ⟨b, v, p, c', g, l'', n, m, e1, e2, kp, (h1.trans k1).trans m1, fun hs =>
    ⟨(k2 hs).1, m2.trans ((k2 hs).2.trans h2)⟩⟩

end Sys2Proof.Machine
end

