-- ==== Sys2Proof/Tests/Slice0.lean ====
section
/-! SUPPORT. Our own tests: the refusals of WellFormed, the spec's worked numbers, one small step for each family,
and for every obligation that has hypotheses a state and operands that meet them all, clause by clause. -/
namespace Sys2Proof.Tests
open Sys2Proof.Machine

/-! ## Small states -/

/-- A request frame of this kind and payload. -/
def requestFrame (kind : Byte) (payload : List Nat) : Frame := ⟨kind, 0x55#8, payload.map (BitVec.ofNat 8)⟩

/-- The state with one held frame. -/
def holding (f : Frame) (s : State) : State := s.setLi { s.li with held := [f] }

/-- The state in another run state. -/
def inRun (r : RunState) (s : State) : State := s.setRc { s.rc with run := r }

/-- The state with side A changed. -/
def sideA (f : Sc → Sc) (s : State) : State := s.modifySc .a f

/-- The state after a command. -/
def after (c : Instr) (s : State) : State :=
  match exec c s with
  | .next t => t
  | .fault _ => s
  | .refused _ => s

/-- The payload of the waiting reply. -/
def replyBytes (s : State) : List Nat :=
  match s.li.reply with
  | some r => r.payload.map BitVec.toNat
  | none => []

/-- What a request of this kind and payload is answered in a state. -/
def answer (c : Instr) (kind : Byte) (payload : List Nat) (s : State) : List Nat :=
  replyBytes (after c (holding (requestFrame kind payload) s))

theorem mayTake_holding (f : Frame) (s : State) (h : s.pinReset = false ∧ s.rc.handler = .ready ∧ s.li.reply = none) :
    mayTake (holding f s) f [] := ⟨h.1, h.2.1, h.2.2, rfl⟩

/-- A pulse-echo shot of channel 0 on every step, with one DETECT and one COUPLING gate. -/
def demoShot : Shot where
  tx := 0
  rx := 0
  gain := 80
  profile := 0
  cadence := 1
  phase := 0
  gates := [⟨.detect, .absolute, 0, 4, 20, 1, 0⟩, ⟨.coupling, .absolute, 4, 4, 20, 1, 0⟩]

/-- The list of `demoShot`: 0 + 4 + 8 TU round up to 1 µs, and the recovery is 100 µs (R50). -/
def demoList : ShotList := ⟨[⟨demoShot, 101⟩], 101⟩

/-- A run with `demoList` on side A; channel A0 is PE, the side ARMED, the car one count before step 1. -/
def demo : State :=
  let s := sideA (fun sc =>
    { sc with
      state := .armed
      lowered := true
      carriageInput := true
      level := .mid
      supply := .mid
      channels := sc.channels.set 0 ⟨.pe, 0, 3, 3⟩ }) State.reset
  let s1 := s.setPs { s.ps with active := ⟨demoList, ⟨[], 0⟩⟩ }
  let s2 := s1.setCs .a (Cs.startRun demoList)
  inRun .running (s2.setDu { s2.du with pos := 15 })

/-- `demo` with side A's shot in flight. -/
def firing : State :=
  demo.setSe .a ⟨some
    { step := 1
      generation := 0
      due := [0]
      position := 0
      inFlight := some ⟨0, 0, 101, ⟨0, 0, 80, 0, 4, 100, 8, .mid⟩⟩
      record := []
      owed := 0 }, []⟩

/-- An indication of A0.0 seen on step 3 alone. -/
def demoIndication : Indication :=
  ⟨.a, 0, 0, 0, 0, 0, 3, 3, 1, 50, 3, 2, 2, 2, none, ⟨false, false, false, false, false⟩⟩

/-- `demo` with a sealed cluster of one member at the front of the release line. -/
def sealed : State :=
  demo.setIt { demo.it with table := demo.it.table.set 5 (.held demoIndication ⟨5, 1, some ⟨11, 1, some .due⟩⟩) }

/-- An OPEN indication of A0.0 seen on steps 2 and 3. -/
def heldIndication : Indication := { demoIndication with first := 2, hits := 2 }

/-- `demo` with one OPEN indication. -/
def tracking : State := demo.setIt { demo.it with table := demo.it.table.set 5 (.opened demoIndication 0) }

/-- A table with unsealed clusters of heads 6 and 8 and these member counts. -/
def heads68 (m n : Nat) : It :=
  (demo.it.setEntry 6 (.held heldIndication ⟨6, 1, some ⟨11, m, none⟩⟩)).setEntry 8
    (.held heldIndication ⟨8, 1, some ⟨20, n, none⟩⟩)

/-- The table with clusters of one and two members, of heads 6 and 8. -/
def clustered : It := (heads68 1 2).setEntry 9 (.held demoIndication ⟨8, 2, none⟩)

/-- A run evaluated up to step 5, with one OPEN indication and one sealed cluster. -/
def lawful : State :=
  (demo.setDu { demo.du with step := 5, hwm := 5 }).setIt ((demo.it.setEntry 5 (.opened demoIndication 1)).setEntry 6
    (.held heldIndication ⟨6, 1, some ⟨4, 1, some .due⟩⟩))

/-! ## WellFormed -/

theorem test_wellFormed_ok : (Instr.shotCompletion .a .good [0, 200]).wellFormed = true := by decide

theorem test_wellFormed_sample : (Instr.shotCompletion .a .good [201]).wellFormed = false := by decide

theorem test_wellFormed_length : (Instr.shotCompletion .a .good (List.replicate 4001 0)).wellFormed = false := by
  rw [Instr.wellFormed, traceLengthOk, List.length_replicate]
  rfl

/-! ## Numbers of the spec -/

/-- Section 1.8. -/
theorem test_stepLengths :
    [0, 1, 2, 3, -1, -2].map ({ Du.reset ⟨false, false⟩ with n := 24, k := 2 } : Du).stepLength =
      [25, 24, 25, 24, 24, 25] := by decide

/-- R1: the table of directions. -/
theorem test_decodeEncoder :
    decodeEncoder .normal ⟨false, false⟩ ⟨true, false⟩ = .forward ∧
    decodeEncoder .normal ⟨true, true⟩ ⟨true, false⟩ = .reverse ∧
    decodeEncoder .swapped ⟨false, true⟩ ⟨false, false⟩ = .reverse ∧
    decodeEncoder .normal ⟨false, true⟩ ⟨true, false⟩ = .illegal := by decide

/-- R157: the check value of the nine characters 1 to 9. -/
theorem test_frameCheck :
    frameCheck ([0x31, 0x32, 0x33, 0x34, 0x35, 0x36, 0x37, 0x38, 0x39].map (BitVec.ofNat 8)) = 0x29B1#16 := by
  decide +kernel

/-- No row of the table gives bits. -/
theorem test_decodeTableWord : decodeTableWord 8 0 = none := by decide

/-- Section 3.7: the durations of the worked example and its plan time. -/
theorem test_durations :
    (Shot.durationWith { demoShot with gates :=
        [⟨.reference, .absolute, 20, 200, 60, 1, 0⟩, ⟨.detect, .follow, 40, 1400, 40, 1, 0⟩,
          ⟨.coupling, .absolute, 1500, 300, 50, 1, 0⟩] } ⟨0, 4, 100⟩ = 191) ∧
    (Shot.durationWith { demoShot with gates := [⟨.detect, .absolute, 100, 900, 30, 1, 0⟩] } ⟨40, 6, 60⟩ = 113) ∧
    (Shot.durationWith { demoShot with gates := [⟨.detect, .absolute, 300, 500, 30, 120, 2⟩] } ⟨0, 4, 100⟩ = 141) := by
  decide +kernel

/-- R86: the four conditions at their limits. -/
theorem test_conditions :
    [19, 20, 39, 40].map (Condition.holds .above 20 40) = [false, true, true, true] ∧
    [19, 20, 39, 40].map (Condition.holds .below 20 40) = [true, false, false, false] ∧
    [19, 20, 39, 40].map (Condition.holds .inside 20 40) = [false, true, true, false] ∧
    [19, 20, 39, 40].map (Condition.holds .outside 20 40) = [true, false, false, true] := by decide

/-- R81, R84: the first of two equal peaks, and the first sample that reaches the threshold. -/
theorem test_measure :
    measure [3, 60, 20, 60] 100 = ⟨60, 101⟩ ∧ firstCrossing [3, 60, 20, 60] 100 20 = some 101 := by decide

/-- R94, R95 with lose count 2 and regain count 2. -/
theorem test_rating :
    rate 2 2 ⟨.unproven, 0, 0⟩ true = (⟨.unproven, 0, 1⟩, none) ∧
    rate 2 2 ⟨.unproven, 0, 1⟩ true = (⟨.coupled, 0, 2⟩, some .couplingRegained) ∧
    rate 2 2 ⟨.coupled, 0, 2⟩ false = (⟨.doubtful, 1, 0⟩, none) ∧
    rate 2 2 ⟨.doubtful, 1, 0⟩ false = (⟨.lost, 2, 0⟩, some .couplingLost) ∧
    rate 2 2 ⟨.lost, 2, 0⟩ true = (⟨.lost, 0, 1⟩, none) := by decide

/-! ## One small step of each family -/

theorem test_stepIdles : step State.reset = .next State.reset := by rfl

theorem test_forwardCount :
    (after (.forwardCount 100 .a) State.reset).du.pos = 1 ∧
    (after (.forwardCount 100 .a) State.reset).du.motion = .forward ∧
    (after (.forwardCount 100 .a) State.reset).du.standstill = some 10000100 := by decide

theorem test_fireBoundary :
    (after (.forwardCount 100 .a) demo).du.hwm = 1 ∧
    ((after (.forwardCount 100 .a) demo).se.a.firing.map (fun f => f.due)) = some [0] := by decide +kernel

theorem test_reverseCount :
    (after (.reverseCount 1) State.reset).du.step = -1 ∧ (after (.reverseCount 1) State.reset).du.pos = 15 := by
  decide

theorem test_carriage :
    (after (.debounceExpiry .a) (after (.carriageInputChange 5 .a) State.reset)).sc.a.state = .lowered ∧
    (after (.debounceExpiry .a) (after (.carriageInputChange 5 .a) State.reset)).now = 40005 := by decide

theorem test_hvfltAborts :
    (after (.hvfltAsserted 3 .a true) firing).sc.a.state = .fault ∧
    (after (.hvfltAsserted 3 .a true) firing).se.a.firing = none := by decide +kernel

theorem test_shotCompletion :
    (after (.shotCompletion .a .good [0, 0, 0, 0, 50]) firing).se.a.firing = none ∧
    (after (.shotCompletion .a .good [0, 0, 0, 0, 50]) firing).gr.a.gaps.coupling = some ⟨1, 1, 1⟩ ∧
    (after (.shotCompletion .a .good [0, 0, 0, 0, 50]) firing).cs.a.ratings[0] = ⟨.unproven, 0, 1⟩ := by
  decide +kernel

theorem test_identify :
    answer .identify 0x01 [] State.reset =
      [0, 108, 75, 70, 65, 50, 52, 1, 12, 16, 4, 64, 8, 8, 24, 8, 8, 2, 240] := by decide

theorem test_queryStatusLength : (answer .queryStatus 0x02 [] State.reset).length = 47 := by decide +kernel

theorem test_setOdometry :
    answer .setOdometry 0x03 [255, 3, 1, 0x13, 0x88] State.reset = [0] ∧
    answer .setOdometry 0x03 [0, 4, 1, 0x13, 0x89] State.reset = [3, 1] ∧
    answer .setOdometry 0x03 [1, 3, 0, 0x13, 0x89] State.reset = [3, 4] ∧
    answer .setOdometry 0x03 [1, 3, 0, 0, 50] (inRun .running State.reset) = [4] := by decide

theorem test_presetPosition :
    (after .presetPosition (holding (requestFrame 0x04 [255, 255, 255, 254]) State.reset)).du.step = -2 := by decide

theorem test_armSide :
    answer .armSide 0x07 [0] State.reset = [8] ∧
    answer .armSide 0x07 [2] State.reset = [3, 1] ∧
    answer .armSide 0x07 [0] (sideA (fun sc => { sc with state := .lowered, lowered := true }) State.reset) = [3, 0] := by
  decide

theorem test_writeShot :
    answer .writeShot 0x0C ([0, 0, 0, 0, 80, 0, 1, 0, 1, 0, 0, 0, 100, 3, 132, 30, 1, 0] ++ List.replicate 27 0)
      State.reset = [0, 1, 0, 151, 0, 151] ∧
    answer .writeShot 0x0C ([0, 0, 0, 0, 80, 0, 1, 0, 1, 0, 1, 0, 100, 3, 132, 30, 1, 0] ++ List.replicate 27 0)
      State.reset = [3, 11] := by decide +kernel

theorem test_startRun :
    answer .startRun 0x12 [] State.reset = [7] ∧
    answer .startRun 0x12 [] (inRun .idle demo) = [0, 0, 0, 0, 0, 0, 0] := by decide

theorem test_unknownAndLength :
    answer .unknownRequestKind 0x15 [] State.reset = [1] ∧ answer .identify 0x01 [0] State.reset = [2] := by decide

/-- R158 to R162: a whole IDENTIFY frame is held. -/
theorem test_receiveFrame :
    let s := State.reset.setLi { State.reset.li with
      receiver := ⟨true, (frameBytes classRequest 0x01 0x07 []).dropLast, false, some 1760⟩ }
    (after (.characterReceived 10 ⟨(frameBytes classRequest 0x01 0x07 []).getD 5 0, false, true⟩) s).li.held =
      [⟨0x01, 0x07, []⟩] := by decide +kernel

/-- R154, R167, R168, R187: the first report after reset is the RUNSTATE report of the pin reset, the mark bit on its first
character alone. -/
theorem test_firstReport :
    ((after .transmissionStart State.reset).li.tx.map (fun t => (t.characters.take 8).map (fun c =>
      (c.data.toNat, c.mark, c.stop)))) =
      some [(163, true, true), (14, false, true), (66, false, true), (0, false, true), (16, false, true),
        (0, false, true), (6, false, true), (0, false, true)] := by decide +kernel

/-- R154: the line of that report at 500 kbit/s, 40 TU a bit: the start bit, 0xA3 with its least significant bit first, the
mark bit, the stop bit, and the start bit of the next character. -/
theorem test_txd :
    (List.range 12).map (fun i => txd ((after .transmissionStart State.reset).advanceTo (40 * i + 39))) =
      [false, true, true, false, false, false, true, false, true, true, true, false] := by decide +kernel

/-- R191: the output pins at reset, and with side A ARMED at MID. -/
theorem test_outputPins :
    outputPins State.reset = ⟨true, true, true, false, false, false, false⟩ ∧
    outputPins demo = ⟨true, true, true, true, false, false, false⟩ ∧
    outputPins { demo with pinReset := true } = ⟨true, true, true, false, false, false, false⟩ := by decide

/-- R182: a RUN reset takes the held IDENTIFY at once. -/
theorem test_runResetTakes :
    let s := holding (requestFrame 0x01 []) (demo.setRc { demo.rc with handler := .awaitingReset .run true })
    (after .resetRunActs s).li.held = [] ∧ (replyBytes (after .resetRunActs s)).take 3 = [0, 108, 75] ∧
    (after .resetRunActs s).rc.run = .idle := by decide +kernel

/-- Two REFERENCE gates of which the first is FOLLOW: the first one's start mode is named (log 25). -/
theorem test_twoReferences :
    answer .writeShot 0x0C ([0, 0, 0, 0, 80, 0, 1, 0, 2, 2, 1, 0, 0, 0, 4, 20, 1, 0, 2, 0, 0, 10, 0, 4, 20, 1, 0] ++
      List.replicate 18 0) State.reset = [3, 11] := by decide +kernel

theorem test_clusterRelease :
    (after .clusterRelease sealed).li.flawQueue.length = 1 ∧ (after .clusterRelease sealed).it.empty = true := by
  decide +kernel

theorem test_pinReset :
    (after (.pinResetRelease 5 ⟨true, false, true, false, false, false, false, false, true, true, true⟩)
      (after (.pinResetAssert 1) demo)).sc.a.state = .lowered ∧
    (after (.pinResetRelease 5 ⟨true, false, true, false, false, false, false, false, true, true, true⟩)
      (after (.pinResetAssert 1) demo)).li.rate = .four := by decide

/-! ## Witnesses for the obligations

Each shows states and operands that meet the hypotheses of a statement, clause by clause, at the limits of their
ranges. -/

/-- Premises shared by the statements about a request. -/
theorem taking (kind : Byte) (payload : List Nat) (s : State)
    (h : s.pinReset = false ∧ s.rc.handler = .ready ∧ s.li.reply = none) :
    mayTake (holding (requestFrame kind payload) s) (requestFrame kind payload) [] := mayTake_holding _ s h

theorem witness_StepRunsFrontCommand :
    (∃ (c : Instr) (rest : List Instr) (s : State), s.pending = c :: rest) ∧ ∃ s : State, s.pending = [] :=
  ⟨⟨.identify, [], { State.reset with pending := [.identify] }, rfl⟩, State.reset, rfl⟩

theorem witness_StepLengthTable :
    ∀ k : Fin 4, ∃ d e : Du, d.k = k.val ∧ d.n = 1 ∧ e.k = k.val ∧ e.n = 255 :=
  fun k => ⟨{ Du.reset ⟨false, false⟩ with n := 1, k := k.val }, { Du.reset ⟨false, false⟩ with n := 255, k := k.val },
    rfl, rfl, rfl, rfl⟩

/-- A car at a step and position. -/
def at' (step : Int) (pos : Nat) (s : State) : State := s.setDu { s.du with step := step, pos := pos }

theorem witness_ForwardCountOffFire :
    (∃ s : State, live s ∧ s.du.pos + 1 < s.du.stepLength s.du.step) ∧
    (∃ s : State, live s ∧ s.du.stepLength s.du.step ≤ s.du.pos + 1 ∧ s.du.step < 2147483647 ∧
      ¬(s.rc.run = .running ∧ s.du.hwm < s.du.step + 1)) ∧
    (∃ (d : Du) (s : State), d.motion = s.du.motion ∧ d.fast = s.du.fast) ∧
    (∃ (d : Du) (s : State), d.motion ≠ s.du.motion ∧ s.li.motion = none) ∧
    (∃ (d : Du) (s : State) (p : Pending MotionReport), d.motion ≠ s.du.motion ∧ s.li.motion = some p) := by
  let moved : Du := { demo.du with motion := .reverse }
  exact ⟨⟨at' 0 14 State.reset, by unfold live; decide⟩, ⟨at' 2147483646 15 State.reset, by unfold live; decide⟩,
    ⟨demo.du, demo, rfl, rfl⟩, ⟨moved, demo, by decide, rfl⟩,
    ⟨moved, demo.setLi { demo.li with motion := some ⟨7, demo.du.motionReport⟩ }, _, by decide, rfl⟩⟩

theorem witness_FireBoundary :
    ∃ s : State, live s ∧ s.du.stepLength s.du.step ≤ s.du.pos + 1 ∧ s.du.step < 2147483647 ∧
      s.rc.run = .running ∧ s.du.hwm < s.du.step + 1 := ⟨at' 2147483646 15 demo, by unfold live; decide⟩

theorem witness_ForwardRangeEnd :
    (∃ s : State, live s ∧ s.du.stepLength s.du.step ≤ s.du.pos + 1 ∧ s.du.step = 2147483647 ∧ s.rc.run ≠ .running) ∧
    (∃ s : State, live s ∧ s.du.stepLength s.du.step ≤ s.du.pos + 1 ∧ s.du.step = 2147483647 ∧ s.rc.run = .running) :=
  ⟨⟨at' 2147483647 15 State.reset, by unfold live; decide⟩, at' 2147483647 15 demo, by unfold live; decide⟩

theorem witness_ReverseCount :
    (∃ s : State, live s ∧ 0 < s.du.pos) ∧ (∃ s : State, live s ∧ s.du.pos = 0 ∧ -2147483648 < s.du.step) ∧
    (∃ s : State, live s ∧ s.du.pos = 0 ∧ s.du.step = -2147483648) :=
  ⟨⟨at' 0 1 State.reset, by unfold live; decide⟩, ⟨at' (-2147483647) 0 State.reset, by unfold live; decide⟩,
    at' (-2147483648) 0 State.reset, by unfold live; decide⟩

theorem witness_IllegalTransitionAndStandstill :
    (∃ s : State, live s ∧ s.du.standstill = none) ∧ (∃ (s : State) (t : Nat), live s ∧ s.du.standstill = some t) :=
  ⟨⟨State.reset, by unfold live; decide⟩, after (.reverseCount 0) State.reset, 10000000, by unfold live; decide⟩

/-- A request that may be taken in each run state. -/
theorem witness_runStates (kind : Byte) (payload : List Nat) (r : RunState) :
    ∃ (s : State) (f : Frame) (rest : List Frame), mayTake s f rest ∧ f.kind = kind ∧
      f.payload = payload.map (BitVec.ofNat 8) ∧ s.rc.run = r :=
  ⟨holding (requestFrame kind payload) (inRun r State.reset), _, _, taking kind payload _ ⟨rfl, rfl, rfl⟩, rfl, rfl, rfl⟩

theorem witness_SetOdometry :
    (∃ (s : State) (f : Frame) (rest : List Frame), mayTake s f rest ∧ f.kind = 0x03#8 ∧ f.payload.length = 5 ∧
      s.rc.run ≠ .idle) ∧
    (∃ (s : State) (f : Frame) (rest : List Frame), mayTake s f rest ∧ f.kind = 0x03#8 ∧ f.payload.length = 5 ∧
      s.rc.run = .idle) :=
  ⟨⟨_, _, _, taking 0x03 [16, 0, 0, 1, 244] demo ⟨rfl, rfl, rfl⟩, rfl, rfl, by decide⟩,
    _, _, _, taking 0x03 [255, 3, 1, 0x13, 0x88] State.reset ⟨rfl, rfl, rfl⟩, rfl, rfl, rfl⟩

theorem witness_PresetPosition :
    (∃ (s : State) (f : Frame) (rest : List Frame), mayTake s f rest ∧ f.kind = 0x04#8 ∧ f.payload.length = 4 ∧
      s.rc.run ≠ .idle) ∧
    (∃ (s : State) (f : Frame) (rest : List Frame), mayTake s f rest ∧ f.kind = 0x04#8 ∧ f.payload.length = 4 ∧
      s.rc.run = .idle) :=
  ⟨⟨_, _, _, taking 0x04 [0, 0, 0, 0] demo ⟨rfl, rfl, rfl⟩, rfl, rfl, by decide⟩,
    _, _, _, taking 0x04 [128, 0, 0, 0] State.reset ⟨rfl, rfl, rfl⟩, rfl, rfl, rfl⟩

theorem witness_CarriageInputChange : ∃ s : State, live s := ⟨State.reset, rfl⟩

/-- Side A in a state, with the flag, level, auto-arm setting and HVFLT that go with it. -/
def sideIn (st : SideState) (lowered : Bool) (level : HvLevel) (autoArm hvflt : Bool) : State :=
  sideA (fun sc => { sc with state := st, lowered := lowered, level := level, autoArm := autoArm, hvflt := hvflt })
    State.reset

/-- The same with a debounce candidate of the level opposite to the flag. -/
def bouncing (st : SideState) (lowered : Bool) (level : HvLevel) (autoArm : Bool) : State :=
  sideA (fun sc => { sc with candidate := some ⟨!lowered, 40000⟩ }) (sideIn st lowered level autoArm false)

theorem witness_DebounceExpiry :
    let premises := fun s : State => live s ∧ (s.sc.get .a).candidate.isSome = true
    (premises (bouncing .fault false .off false) ∧ ((bouncing .fault false .off false).sc.get .a).state ≠ .parked) ∧
    (premises (bouncing .parked false .off true) ∧ ((bouncing .parked false .off true).sc.get .a).state = .parked ∧
      ((bouncing .parked false .off true).sc.get .a).level = .off) ∧
    (premises (bouncing .parked false .low true) ∧ ((bouncing .parked false .low true).sc.get .a).autoArm = true ∧
      ((bouncing .parked false .low true).sc.get .a).level ≠ .off) ∧
    (premises (bouncing .fault true .low true) ∧ ((bouncing .fault true .low true).sc.get .a).state = .fault) ∧
    (premises (bouncing .armed true .low true) ∧ ((bouncing .armed true .low true).sc.get .a).state = .armed) := by
  unfold live; decide

theorem witness_HvrdyEdges :
    live (sideIn .arming true .low false false) ∧ ((sideIn .arming true .low false false).sc.get .a).hvrdy = false ∧
    ((sideIn .arming true .low false false).sc.get .a).state = .arming ∧
    ((sideIn .armed true .low false false).sc.get .a).state ≠ .arming ∧
    ((sideA (fun sc => { sc with hvrdy := true }) State.reset).sc.get .a).hvrdy = true := by unfold live; decide

theorem witness_SupplyFaultAndRampTimeout :
    live (sideIn .arming true .low false false) ∧ ((sideIn .arming true .low false false).sc.get .a).hvflt = false ∧
    ((sideIn .armed true .low false false).sc.get .a).state = .armed ∧
    ((sideIn .armed true .low false true).sc.get .a).hvflt = true ∧
    ((sideIn .fault true .low false false).sc.get .a).state ≠ .arming ∧
    ((sideA (fun sc => { sc with state := .arming, ramp := some 600000 }) State.reset).sc.get .a).ramp = some 600000 := by
  unfold live; decide

/-- All eight dispositions of side A set to one value. -/
def disposed (d : Disposition) (s : State) : State :=
  sideA (fun sc => { sc with dispositions := ⟨d, d, d, d, d, d, d, d⟩ }) s

theorem witness_EventDispositions :
    ((disposed .ignore demo).sc.get .a).dispositions.get .armed = .ignore ∧
    ((disposed .alert demo).sc.get .a).dispositions.get .armed = .alert ∧
    ((disposed .halt State.reset).sc.get .a).dispositions.get .couplingLost = .halt ∧
    (disposed .halt State.reset).rc.run ≠ .running ∧
    ((disposed .halt demo).sc.get .a).dispositions.get .couplingLost = .halt ∧ (disposed .halt demo).rc.run = .running := by
  decide

/-- A SET_SIDE payload. -/
def setSidePayload (side level auto last : Nat) : List Nat := [side, level, auto, 0, 1, 2, 3, 0, 1, 2, last]

theorem witness_SetSide :
    (∃ (s : State) (f : Frame) (rest : List Frame), mayTake s f rest ∧ f.kind = 0x06#8 ∧ f.payload.length = 11 ∧
      lowestFailing
        ([(1, decide (1 < u8 f.payload 0)), (2, decide (3 < u8 f.payload 1)), (3, decide (1 < u8 f.payload 2))] ++
          (List.range 8).map (fun j => (4 + j, decide (3 < u8 f.payload (3 + j))))) = some 11) ∧
    (∀ (st : SideState) (level current : HvLevel),
      ∃ (s : State) (f : Frame) (rest : List Frame), mayTake s f rest ∧ f.kind = 0x06#8 ∧ f.payload.length = 11 ∧
        u8 f.payload 0 = sideCode .a ∧ u8 f.payload 1 = level.code ∧ u8 f.payload 2 = boolCode true ∧
        (List.range 8).map (fun j => u8 f.payload (3 + j)) = [0, 1, 2, 3, 0, 1, 2, 3] ∧
        (s.sc.get .a).level = current ∧ (s.sc.get .a).state = st) := by
  refine ⟨⟨_, _, _, taking 0x06 (setSidePayload 1 3 1 4) State.reset ⟨rfl, rfl, rfl⟩, rfl, rfl, by decide⟩, ?_⟩
  intro st level current
  refine ⟨_, _, _, taking 0x06 (setSidePayload 0 level.code 1 3) (sideIn st true current false false) ⟨rfl, rfl, rfl⟩,
    rfl, rfl, rfl, ?_, rfl, ?_, rfl, rfl⟩
  · cases level <;> rfl
  · cases level <;> decide

/-- One shape for ARM_SIDE and DISARM_SIDE: a side code out of range, and both sides in every state. -/
theorem witness_ArmAndDisarm (kind : Byte) :
    (∃ (s : State) (f : Frame) (rest : List Frame), mayTake s f rest ∧ f.kind = kind ∧ f.payload.length = 1 ∧
      1 < u8 f.payload 0) ∧
    (∀ (st : SideState) (level : HvLevel),
      ∃ (s : State) (f : Frame) (rest : List Frame), mayTake s f rest ∧ f.kind = kind ∧ f.payload.length = 1 ∧
        u8 f.payload 0 = sideCode .a ∧ (s.sc.get .a).state = st ∧ (s.sc.get .a).level = level) :=
  ⟨⟨_, _, _, taking kind [2] State.reset ⟨rfl, rfl, rfl⟩, rfl, rfl, (by decide : 1 < 2)⟩,
    fun st level => ⟨_, _, _, taking kind [0] (sideIn st true level false false) ⟨rfl, rfl, rfl⟩, rfl, rfl, rfl, rfl, rfl⟩⟩

theorem witness_ClearFault :
    (∃ (s : State) (f : Frame) (rest : List Frame), mayTake s f rest ∧ f.kind = 0x09#8 ∧ f.payload.length = 2 ∧
      1 < u8 f.payload 0) ∧
    (∀ (st : SideState) (lowered autoArm : Bool) (level : HvLevel),
      ∃ (s : State) (f : Frame) (rest : List Frame), mayTake s f rest ∧ f.kind = 0x09#8 ∧ f.payload.length = 2 ∧
        u8 f.payload 0 = sideCode .a ∧ u8 f.payload 1 = 255 ∧ (s.sc.get .a).state = st ∧
        (s.sc.get .a).lowered = lowered ∧ (s.sc.get .a).autoArm = autoArm ∧ (s.sc.get .a).level = level) ∧
    (∃ (s : State) (f : Frame) (rest : List Frame), mayTake s f rest ∧ f.kind = 0x09#8 ∧ f.payload.length = 2 ∧
      u8 f.payload 0 = sideCode .b ∧ u8 f.payload 1 = (11 : Channel).val) ∧
    (∃ (s : State) (f : Frame) (rest : List Frame), mayTake s f rest ∧ f.kind = 0x09#8 ∧ f.payload.length = 2 ∧
      u8 f.payload 0 = sideCode .b ∧ u8 f.payload 1 ≠ 255 ∧ 11 < u8 f.payload 1) :=
  ⟨⟨_, _, _, taking 0x09 [2, 255] State.reset ⟨rfl, rfl, rfl⟩, rfl, rfl, by decide⟩,
    fun st lowered autoArm level =>
      ⟨_, _, _, taking 0x09 [0, 255] (sideIn st lowered level autoArm false) ⟨rfl, rfl, rfl⟩, rfl, rfl, rfl, rfl, rfl,
        rfl, rfl, rfl⟩,
    ⟨_, _, _, taking 0x09 [1, 11] State.reset ⟨rfl, rfl, rfl⟩, rfl, rfl, rfl, rfl⟩,
    _, _, _, taking 0x09 [1, 12] State.reset ⟨rfl, rfl, rfl⟩, rfl, rfl, rfl, by decide, by decide⟩

theorem witness_SetChannel :
    (∃ (s : State) (f : Frame) (rest : List Frame), mayTake s f rest ∧ f.kind = 0x0A#8 ∧ f.payload.length = 6 ∧
      lowestFailing
        [(1, decide (1 < u8 f.payload 0)), (2, decide (11 < u8 f.payload 1)), (3, decide (3 < u8 f.payload 2)),
          (4, decide (11 < u8 f.payload 3)), (5, decide (u8 f.payload 4 < 1 ∨ 15 < u8 f.payload 4)),
          (6, decide (u8 f.payload 5 < 1 ∨ 15 < u8 f.payload 5))] = some 6) ∧
    (∀ r : RunState, ∃ (s : State) (f : Frame) (rest : List Frame), mayTake s f rest ∧ f.kind = 0x0A#8 ∧
      f.payload = [sideCode .b, (11 : Channel).val, 3, (0 : Channel).val, 1, 15].map (BitVec.ofNat 8) ∧
      roleOfCode 3 = some .rx ∧ s.rc.run = r) :=
  ⟨⟨_, _, _, taking 0x0A [1, 11, 3, 11, 15, 16] State.reset ⟨rfl, rfl, rfl⟩, rfl, rfl, by decide⟩,
    fun r => ⟨_, _, _, taking 0x0A [1, 11, 3, 0, 1, 15] (inRun r State.reset) ⟨rfl, rfl, rfl⟩, rfl, rfl, rfl, rfl⟩⟩

theorem witness_SetProfile :
    (∃ (s : State) (f : Frame) (rest : List Frame), mayTake s f rest ∧ f.kind = 0x0B#8 ∧ f.payload.length = 7 ∧
      lowestFailing
        [(1, decide (1 < u8 f.payload 0)), (2, decide (3 < u8 f.payload 1)), (3, decide (400 < u16 f.payload 2)),
          (4, decide (u8 f.payload 4 < 1 ∨ 10 < u8 f.payload 4)),
          (5, decide (u16 f.payload 5 < 10 ∨ 2000 < u16 f.payload 5))] = some 5) ∧
    (∀ n : Fin 4, ∃ (s : State) (f : Frame) (rest : List Frame), mayTake s f rest ∧ f.kind = 0x0B#8 ∧
      f.payload.length = 7 ∧ u8 f.payload 0 = sideCode .a ∧ u8 f.payload 1 = n.val ∧ u16 f.payload 2 = 400 ∧
      u8 f.payload 4 = 10 ∧ u16 f.payload 5 = 2000 ∧ s.rc.run ≠ .idle ∧
      ((s.ps.active.get .a).names n = true ↔ n = 0)) :=
  ⟨⟨_, _, _, taking 0x0B [1, 3, 1, 144, 10, 7, 209] State.reset ⟨rfl, rfl, rfl⟩, rfl, rfl, by decide⟩,
    fun n => ⟨_, _, _, taking 0x0B [0, n.val, 1, 144, 10, 7, 208] demo ⟨rfl, rfl, rfl⟩, rfl, rfl, rfl,
      by revert n; decide, by revert n; decide, by revert n; decide, by revert n; decide, by revert n; decide,
      by revert n; decide⟩⟩

theorem witness_EffectiveRoles :
    let sc : Sc := { Sc.reset true false false with
      channels := (((Vector.replicate 12 ChannelRecord.reset).set 0 ⟨.tx, 1, 3, 3⟩).set 1 ⟨.rx, 0, 3, 3⟩).set 2
        ⟨.pe, 0, 3, 3⟩
      faults := (Vector.replicate 12 FaultLatch.none).set 11 .shorted }
    sc.effectiveRole 3 = .off ∧ sc.effectiveRole 2 = .pe ∧ sc.effectiveRole 0 = .tx ∧ sc.effectiveRole 1 = .rx ∧
    ({ sc with channels := sc.channels.set 11 ⟨.pe, 0, 3, 3⟩ } : Sc).effectiveRole 11 = .faulted ∧
    ({ sc with channels := sc.channels.set 4 ⟨.rx, 1, 3, 3⟩ } : Sc).effectiveRole 4 = .unpaired ∧
    ({ sc with channels := sc.channels.set 5 ⟨.tx, 5, 3, 3⟩ } : Sc).effectiveRole 5 = .unpaired ∧
    sc.executable { demoShot with tx := 0, rx := 1 } = true ∧ sc.executable { demoShot with tx := 2, rx := 2 } = true ∧
    sc.executable { demoShot with tx := 2, rx := 1 } = false := by decide

/-- A WRITE_SHOT payload with one ABSOLUTE DETECT gate of start 3999 and width 1. -/
def shotPayload (side index cadence phase : Nat) : List Nat :=
  [side, index, 11, 11, 160, 3, cadence, phase, 1, 0, 0, 15, 159, 0, 1, 199, 1, 0] ++ List.replicate 27 0

theorem witness_WriteShot :
    (∃ (s : State) (f : Frame) (rest : List Frame), mayTake s f rest ∧ f.kind = 0x0C#8 ∧ f.payload.length = 45 ∧
      s.ps.swapPending = true) ∧
    (∃ (s : State) (f : Frame) (rest : List Frame), mayTake s f rest ∧ f.kind = 0x0C#8 ∧ f.payload.length = 45 ∧
      s.ps.swapPending = false ∧ 1 < u8 f.payload 0) ∧
    (∃ (s : State) (f : Frame) (rest : List Frame), mayTake s f rest ∧ f.kind = 0x0C#8 ∧ f.payload.length = 45 ∧
      s.ps.swapPending = false ∧ u8 f.payload 0 = sideCode .b ∧
      writeShotFailing f.payload (s.ps.staged.get .b).shots.length = some 8) ∧
    (∃ (s : State) (f : Frame) (rest : List Frame), mayTake s f rest ∧ f.kind = 0x0C#8 ∧ f.payload.length = 45 ∧
      s.ps.swapPending = false ∧ u8 f.payload 0 = sideCode .b ∧
      writeShotFailing f.payload (s.ps.staged.get .b).shots.length = none) :=
  ⟨⟨_, _, _, taking 0x0C (shotPayload 0 0 4 3) (demo.setPs { demo.ps with swapPending := true }) ⟨rfl, rfl, rfl⟩, rfl, rfl,
      rfl⟩,
    ⟨_, _, _, taking 0x0C (shotPayload 2 0 4 3) demo ⟨rfl, rfl, rfl⟩, rfl, rfl, rfl, by decide⟩,
    ⟨_, _, _, taking 0x0C (shotPayload 1 0 4 4) demo ⟨rfl, rfl, rfl⟩, rfl, rfl, rfl, rfl, by decide +kernel⟩,
    _, _, _, taking 0x0C (shotPayload 1 0 4 3) demo ⟨rfl, rfl, rfl⟩, rfl, rfl, rfl, rfl, by decide +kernel⟩

/-- A WRITE_SHOT payload with these gate records and this gate count. -/
def gatesPayload (count : Nat) (gates : List (List Nat)) : List Byte :=
  ([0, 0, 0, 0, 80, 0, 1, 0, count] ++ gates.flatten ++ List.replicate (36 - 9 * gates.length) 0).map (BitVec.ofNat 8)

/-- The shot of a payload with a REFERENCE gate, whose condition code is kept as it is, and a FOLLOW gate (R41, R42, R188). -/
theorem test_shotOfPayload :
    let p := gatesPayload 2 [[2, 0, 0, 20, 0, 200, 60, 1, 7], [0, 1, 0, 40, 5, 120, 40, 90, 2]]
    writeShotFailing p 0 = none ∧
    shotOfPayload p = ⟨0, 0, 80, 0, 1, 0,
      [⟨.reference, .absolute, 20, 200, 60, 1, 7⟩, ⟨.detect, .follow, 40, 1400, 40, 90, 2⟩]⟩ := by decide +kernel

/-- R49: a FOLLOW gate within the scale and one beyond it, all REFERENCE gates with one end, and no gate. -/
theorem witness_listeningEnd :
    let near : List Gate := [⟨.reference, .absolute, 20, 200, 60, 1, 0⟩, ⟨.detect, .follow, 40, 1400, 40, 1, 0⟩]
    let far : List Gate := [⟨.reference, .absolute, 3000, 600, 50, 1, 0⟩, ⟨.detect, .follow, 200, 400, 30, 1, 0⟩]
    (∀ r ∈ near, r.purpose = .reference → r.start + r.width = 220) ∧
    (∀ g ∈ near, g.mode = .follow → ∃ r ∈ near, r.purpose = .reference) ∧ listeningEnd near = 1660 ∧
    (∀ r ∈ far, r.purpose = .reference → r.start + r.width = 3600) ∧
    (∀ g ∈ far, g.mode = .follow → ∃ r ∈ far, r.purpose = .reference) ∧ listeningEnd far = 4000 ∧
    listeningEnd [] = 0 := by decide

/-- R43 to R45: the index named for each kind of failing field, at the limits of the ranges, and for each kind of
disagreement; a REFERENCE gate's condition is not looked at. -/
theorem test_writeShotIndex :
    let one := fun g : List Nat => writeShotFailing (gatesPayload 1 [g]) 0
    let two := fun g h : List Nat => writeShotFailing (gatesPayload 2 [g, h]) 0
    let reference := [2, 0, 0, 0, 0, 1, 1, 1, 255]
    writeShotFailing (gatesPayload 5 []) 0 = some 9 ∧ one reference = none ∧
    one [3, 0, 0, 0, 0, 1, 1, 1, 0] = some 10 ∧ one [0, 2, 0, 0, 0, 1, 1, 1, 0] = some 11 ∧
    one [0, 0, 15, 160, 0, 1, 1, 1, 0] = some 12 ∧ one [0, 0, 0, 0, 0, 0, 1, 1, 0] = some 13 ∧
    one [0, 0, 0, 0, 0, 1, 200, 1, 0] = some 14 ∧ one [0, 0, 0, 0, 0, 1, 1, 0, 0] = some 15 ∧
    one [0, 0, 0, 0, 0, 1, 1, 1, 4] = some 16 ∧ one [0, 1, 0, 0, 0, 1, 1, 1, 0] = some 11 ∧
    one [0, 0, 0, 1, 15, 160, 1, 1, 0] = some 13 ∧ one [0, 0, 0, 0, 0, 1, 9, 9, 2] = some 15 ∧
    two reference reference = some 17 ∧
    two [1, 0, 0, 0, 0, 1, 1, 1, 0] [1, 0, 0, 0, 0, 1, 1, 1, 0] = some 17 ∧
    two reference [0, 1, 15, 159, 15, 160, 1, 1, 0] = none := by decide +kernel

/-- Both sides of the equivalence hold, and both fail, on some payload. -/
theorem witness_WriteShotChecks :
    writeShotFailing ((shotPayload 1 0 4 3).map (BitVec.ofNat 8)) 0 = none ∧
    writeShotFailing ((shotPayload 1 1 4 3).map (BitVec.ofNat 8)) 0 = some 2 ∧
    writeShotFailing ((shotPayload 1 15 4 3).map (BitVec.ofNat 8)) 15 = none ∧
    writeShotFailing ((shotPayload 1 16 4 3).map (BitVec.ofNat 8)) 16 = some 2 := by decide +kernel

theorem witness_ClearStagedAndReadShot :
    (∃ (s : State) (f : Frame) (rest : List Frame), mayTake s f rest ∧ f.kind = 0x0D#8 ∧ f.payload.length = 1 ∧
      s.ps.swapPending = true) ∧
    (∃ (s : State) (f : Frame) (rest : List Frame), mayTake s f rest ∧ f.kind = 0x0D#8 ∧ f.payload.length = 1 ∧
      s.ps.swapPending = false) ∧
    (∃ (s : State) (f : Frame) (rest : List Frame), mayTake s f rest ∧ f.kind = 0x0E#8 ∧ f.payload.length = 3) :=
  ⟨⟨_, _, _, taking 0x0D [2] (demo.setPs { demo.ps with swapPending := true }) ⟨rfl, rfl, rfl⟩, rfl, rfl, rfl⟩,
    ⟨_, _, _, taking 0x0D [2] demo ⟨rfl, rfl, rfl⟩, rfl, rfl, rfl⟩,
    _, _, _, taking 0x0E [1, 1, 15] demo ⟨rfl, rfl, rfl⟩, rfl, rfl⟩

/-- R189: two gate records and the zeros above them. -/
theorem test_gateBytes :
    (gateBytes demoShot.gates).map BitVec.toNat =
      [0, 0, 0, 0, 0, 4, 20, 1, 0, 1, 0, 0, 4, 0, 4, 20, 1, 0] ++ List.replicate 18 0 := by decide

theorem witness_SwapPlans :
    ∀ (r : RunState) (b : Bool), ∃ (s : State) (f : Frame) (rest : List Frame), mayTake s f rest ∧ f.kind = 0x0F#8 ∧
      f.payload.length = 0 ∧ s.rc.run = r ∧ s.ps.swapPending = b :=
  fun r b => ⟨_, _, _, taking 0x0F [] (inRun r (demo.setPs { demo.ps with swapPending := b })) ⟨rfl, rfl, rfl⟩, rfl, rfl,
    rfl, rfl⟩

theorem witness_SetTracking :
    ∀ r : RunState, ∃ (s : State) (f : Frame) (rest : List Frame), mayTake s f rest ∧ f.kind = 0x05#8 ∧
      f.payload.length = 7 ∧ s.rc.run = r :=
  fun r => ⟨_, _, _, taking 0x05 [7, 15, 16, 0, 255, 56, 8] (inRun r demo) ⟨rfl, rfl, rfl⟩, rfl, rfl, rfl⟩

theorem witness_ZoneRequests :
    (∃ (s : State) (f : Frame) (rest : List Frame), mayTake s f rest ∧ f.kind = 0x10#8 ∧ f.payload.length = 15 ∧
      lowestFailing
        [(1, decide (1 < u8 f.payload 0)), (2, decide (7 < u8 f.payload 1)), (3, decide (1 < u8 f.payload 2)),
          (5, decide (s32 f.payload 7 < s32 f.payload 3)), (6, decide (4095 < u16 f.payload 11)),
          (7, decide (1 < u8 f.payload 13)), (8, decide (u8 f.payload 14 < 1 ∨ 15 < u8 f.payload 14))] = some 8) ∧
    (∃ (s : State) (f : Frame) (rest : List Frame), mayTake s f rest ∧ f.kind = 0x10#8 ∧ f.payload.length = 15 ∧
      u8 f.payload 0 = sideCode .b ∧ u8 f.payload 1 = (7 : Fin 8).val ∧ u8 f.payload 2 = boolCode true ∧
      s32 f.payload 3 ≤ s32 f.payload 7 ∧ u16 f.payload 11 ≤ 4095 ∧ u8 f.payload 13 ≤ 1 ∧ 1 ≤ u8 f.payload 14 ∧
      u8 f.payload 14 ≤ 15) ∧
    (∃ (s : State) (f : Frame) (rest : List Frame), mayTake s f rest ∧ f.kind = 0x11#8 ∧ f.payload.length = 4) :=
  ⟨⟨_, _, _, taking 0x10 [1, 7, 1, 128, 0, 0, 0, 127, 255, 255, 255, 15, 255, 1, 16] demo ⟨rfl, rfl, rfl⟩, rfl, rfl,
      by decide⟩,
    ⟨_, _, _, taking 0x10 [1, 7, 1, 128, 0, 0, 0, 128, 0, 0, 0, 15, 255, 1, 15] demo ⟨rfl, rfl, rfl⟩, rfl, rfl, rfl, rfl,
      rfl, by decide, by decide, by decide, by decide, by decide⟩,
    _, _, _, taking 0x11 [255, 255, 255, 255] demo ⟨rfl, rfl, rfl⟩, rfl, rfl⟩

/-- R118, R119: at both ends of a zone, beside it, and under a MASK zone of a higher number. -/
theorem witness_ZoneOutcome :
    let zones := (Vector.replicate 8 Zone.reset).set 2 ⟨true, 10, 20, 1, .tag, 5⟩
    zoneOutcome zones 3 7 0 = .tagged 5 ∧ zoneOutcome zones 3 17 0 = .tagged 5 ∧ zoneOutcome zones 3 18 0 = .clear ∧
    zoneOutcome zones 3 7 1 = .clear ∧ zoneOutcome (zones.set 7 ⟨true, 10, 10, 1, .mask, 1⟩) 3 7 0 = .masked := by
  decide

theorem witness_StartRun :
    (∀ r : RunState, ∃ (s : State) (f : Frame) (rest : List Frame), mayTake s f rest ∧ f.kind = 0x12#8 ∧
      f.payload.length = 0 ∧ s.rc.run = r ∧ s.ps.active.a.shots = [] ∧ s.ps.active.b.shots = []) ∧
    (∃ (s : State) (f : Frame) (rest : List Frame), mayTake s f rest ∧ f.kind = 0x12#8 ∧ f.payload.length = 0 ∧
      s.rc.run = .idle ∧ s.ps.active.a.shots ≠ []) :=
  ⟨fun r => ⟨_, _, _, taking 0x12 [] (inRun r State.reset) ⟨rfl, rfl, rfl⟩, rfl, rfl, rfl, rfl, rfl⟩,
    _, _, _, taking 0x12 [] (inRun .idle demo) ⟨rfl, rfl, rfl⟩, rfl, rfl, rfl, List.cons_ne_nil _ _⟩

/-- R58, R180: the RUNSTATE slot empty and pending, and what a stop and a swap make of the report of a pin reset. -/
theorem witness_placeRunstate :
    (demo.setLi { demo.li with runstate := none }).li.runstate = none ∧ demo.li.runstate.isSome = true ∧
    (placeRunstate ⟨false, true, false, true, false⟩ (some (9, .boundary)) demo).li.runstate =
      some ⟨0, ⟨⟨false, true, false, true, true⟩, .running, .powerOn, 0, 0, 9, .boundary⟩⟩ := by decide

theorem witness_StopRun :
    (∃ (s : State) (f : Frame) (rest : List Frame), mayTake s f rest ∧ f.kind = 0x13#8 ∧ f.payload.length = 0 ∧
      s.rc.run ≠ .running) ∧
    (∃ (s : State) (f : Frame) (rest : List Frame), mayTake s f rest ∧ f.kind = 0x13#8 ∧ f.payload.length = 0 ∧
      s.rc.run = .running ∧ enginesIdle s = true) ∧
    (∃ (s : State) (f : Frame) (rest : List Frame), mayTake s f rest ∧ f.kind = 0x13#8 ∧ f.payload.length = 0 ∧
      s.rc.run = .running ∧ enginesIdle s = false) :=
  ⟨⟨_, _, _, taking 0x13 [] State.reset ⟨rfl, rfl, rfl⟩, rfl, rfl, by decide⟩,
    ⟨_, _, _, taking 0x13 [] demo ⟨rfl, rfl, rfl⟩, rfl, rfl, rfl, rfl⟩,
    _, _, _, taking 0x13 [] firing ⟨rfl, rfl, rfl⟩, rfl, rfl, rfl, rfl⟩

theorem witness_ResetRequest :
    (∃ (s : State) (f : Frame) (rest : List Frame), mayTake s f rest ∧ f.kind = 0x14#8 ∧ f.payload.length = 1 ∧
      1 < u8 f.payload 0) ∧
    (∀ scope : Scope, ∃ (s : State) (f : Frame) (rest : List Frame), mayTake s f rest ∧ f.kind = 0x14#8 ∧
      f.payload.length = 1 ∧ u8 f.payload 0 = scope.code) :=
  ⟨⟨_, _, _, taking 0x14 [2] demo ⟨rfl, rfl, rfl⟩, rfl, rfl, by decide⟩,
    fun scope => ⟨_, _, _, taking 0x14 [scope.code] demo ⟨rfl, rfl, rfl⟩, rfl, rfl, by cases scope <;> rfl⟩⟩

theorem witness_CommonChecks :
    (∃ (s : State) (f : Frame) (rest : List Frame), mayTake s f rest ∧ f.kind = 0#8) ∧
    (∃ (s : State) (f : Frame) (rest : List Frame), mayTake s f rest ∧ 20 < f.kind.toNat) ∧
    (∃ (c : Instr) (k : Byte) (n : Nat) (s : State) (f : Frame) (rest : List Frame), requestForm c = some (k, n) ∧
      mayTake s f rest ∧ f.kind = k ∧ f.payload.length ≠ n) ∧
    (∃ (c : Instr) (k : Byte) (n : Nat) (s : State) (f : Frame) (rest : List Frame), requestForm c = some (k, n) ∧
      mayTake s f rest ∧ f.kind ≠ k) ∧
    (∃ s : State, s.rc.handler ≠ .ready) ∧ (∃ s : State, s.li.reply.isSome) ∧ (∃ s : State, s.li.held = []) :=
  ⟨⟨_, _, _, taking 0 [] demo ⟨rfl, rfl, rfl⟩, rfl⟩, ⟨_, _, _, taking 21 [] demo ⟨rfl, rfl, rfl⟩, by decide⟩,
    ⟨.startRun, _, _, _, _, _, rfl, taking 0x12 [0] demo ⟨rfl, rfl, rfl⟩, rfl, by decide⟩,
    ⟨.startRun, _, _, _, _, _, rfl, taking 0x13 [] demo ⟨rfl, rfl, rfl⟩, by decide⟩,
    ⟨demo.setRc { demo.rc with handler := .awaitingReset .run false }, by decide⟩,
    ⟨demo.setLi { demo.li with reply := some ⟨0, 0, [], false⟩ }, rfl⟩, demo, rfl⟩

theorem witness_IdentificationAndStatus (kind : Byte) :
    ∃ (s : State) (f : Frame) (rest : List Frame), mayTake s f rest ∧ f.payload.length = 0 ∧ f.kind = kind :=
  ⟨_, _, _, taking kind [] firing ⟨rfl, rfl, rfl⟩, rfl, rfl⟩

/-- `firing` with channel A0 switched off. -/
def unroled : State := sideA (fun sc => { sc with channels := sc.channels.set 0 ⟨.off, 0, 3, 3⟩ }) firing

theorem witness_EngineAtBoundary :
    (∃ f : Firing, (firing.se.get .a).firing = some f) ∧
    ((demo.se.get .b).firing = none ∧ (demo.ps.active.get .b).dueIndices 1 = []) ∧
    ((demo.se.get .a).firing = none ∧ (demo.sc.get .a).state = .armed ∧
      (demo.ps.active.get .a).dueIndices 1 = [0] ∧ (demo.ps.active.get .a).shots[0]? = some ⟨demoShot, 101⟩ ∧
      (demo.sc.get .a).executable demoShot = true) ∧
    ((State.reset.se.get .a).firing = none ∧ (State.reset.sc.get .a).state ≠ .armed) ∧
    ((unroled.se.get .a).firing.isSome = true ∧ (unroled.sc.get .a).state = .armed ∧
      (unroled.sc.get .a).executable demoShot = false) ∧
    ((sideA (fun sc => { sc with state := .lowered }) firing).sc.get .a).state ≠ .armed ∧
    (demo.se.get .a).finished = [] ∧ ((demo.setSe .a ⟨none, [⟨1, 0, []⟩]⟩).se.get .a).finished ≠ [] :=
  ⟨⟨_, rfl⟩, by decide, by decide, by decide, by decide, by decide, by decide, by decide⟩

theorem witness_ShotCompletion :
    ∃ (s : State) (x : Side) (f : Firing) (fl : InFlight) (p : PlannedShot), live s ∧ (s.se.get x).firing = some f ∧
      f.inFlight = some fl ∧ (s.ps.active.get x).shots[fl.shot]? = some p :=
  ⟨firing, .a, _, _, _, rfl, rfl, rfl, rfl⟩

theorem witness_CouplingRating (st : CouplingState) : ∃ c : ChannelCoupling, c.state = st := ⟨⟨st, 0, 0⟩, rfl⟩

/-- R95: with the reset record of channel A0 a first good result raises no event; with regain count 1 it does. -/
theorem witness_couplingResult :
    let record := fun (s : State) => (s.sc.get .a).channels[(0 : Channel)]
    let r := fun s : State => rate (record s).lose (record s).regain (s.cs.get .a).ratings[(0 : Channel)] true
    (r demo).2 = none ∧
    (r (sideA (fun sc => { sc with channels := sc.channels.set 0 ⟨.pe, 0, 3, 1⟩ }) demo)).2 =
      some .couplingRegained := by decide

theorem witness_GateMeasurements :
    (∃ samples : List Nat, samples ≠ []) ∧ (∃ t, firstCrossing [1, 20] 5 20 = some t) ∧
    firstCrossing [1, 19] 5 20 = none := ⟨⟨[0], by decide⟩, ⟨6, rfl⟩, rfl⟩

/-- R79 to R83, R87 to R90: an ABSOLUTE REFERENCE gate, a FOLLOW gate that it places, a COUPLING gate, and a FOLLOW gate at
either side of the end of the scale; what is passed on. -/
theorem test_evaluateGates :
    let gates : List Gate := [⟨.reference, .absolute, 1, 3, 20, 1, 9⟩, ⟨.detect, .follow, 1, 2, 30, 1, 0⟩,
      ⟨.coupling, .absolute, 0, 2, 10, 1, 0⟩, ⟨.detect, .follow, 3998, 1, 30, 1, 0⟩]
    let results := evaluateGates [0, 9, 20, 40, 35, 0] gates
    results = [.reference 0 (some 2), .detect 1 (.hit ⟨40, 3⟩), .coupling 2 (.miss ⟨9, 1⟩), .detect 3 .unevaluated] ∧
    detectResults results = [⟨1, .hit ⟨40, 3⟩⟩, ⟨3, .unevaluated⟩] ∧ couplingGood results = some false ∧
    (⟨.detect, .follow, 3997, 9, 30, 1, 0⟩ : Gate).placedWindow (some 2) = some (3999, 4000) ∧
    deliveredTrace [7, 255] 3 = [7, 200, 0] := by decide +kernel

/-- `demo` with one finished step record of side A and its verdict. -/
def finished : State :=
  let s := demo.setSe .a ⟨none, [⟨1, 0, [⟨0, 0, 0, .skipped .overrun⟩]⟩]⟩
  s.setIt { s.it with verdicts := ⟨[⟨1, Vector.replicate 12 .clear⟩], []⟩ }

/-- What stays fixed at step 4 of side A, with one zone outcome for all channels. -/
def context (z : ZoneOutcome) : EvalContext := ⟨.a, 4, 0, ⟨4, Vector.replicate 12 z⟩⟩

/-- Each class of a gate, with and without an OPEN indication of its key, a claim and a refused claim; the closing test
at its limits, and the closure at the minimum hits. -/
theorem witness_StepEvaluation :
    (∃ (s : State) (x : Side) (r : StepRecord) (rest : List StepRecord) (v : Verdict) (vs : List Verdict),
      live s ∧ (s.se.get x).finished = r :: rest ∧ s.it.verdicts.get x = v :: vs) ∧
    ((context .masked).verdict.outcomes[(0 : Channel)] = .masked ∧
      (context (.tagged 5)).verdict.outcomes[(0 : Channel)] ≠ .masked) ∧
    (tracking.it.findOpen .a 0 0 = some (5, demoIndication, 0) ∧ demo.it.findOpen .a 0 0 = none) ∧
    ((([⟨0, .hit ⟨50, 2⟩⟩] : List DetectResult).find? (fun r => r.gate = 0)).map (fun r => r.kind) =
        some (.hit ⟨50, 2⟩) ∧
      (([⟨0, .miss ⟨9, 2⟩⟩] : List DetectResult).find? (fun r => r.gate = 0)).map (fun r => r.kind) =
        some (.miss ⟨9, 2⟩)) ∧
    (tracking.it.claim .a = some 0 ∧
      ({ tracking.it with settings := { tracking.it.settings with cap := ⟨1, 1⟩ } } : It).claim .a = none) ∧
    (tracking.it.settings.bridge = 2 ∧ tracking.it.settings.maxLength = 1024 ∧ demoIndication.first = 3 ∧
      (1023 - demoIndication.first + 1 < 1024 ∧ (1024 : Int) ≤ 1026 - demoIndication.first + 1)) ∧
    (demoIndication.hits < tracking.it.settings.minHits ∧ tracking.it.settings.minHits ≤ heldIndication.hits) := by
  refine ⟨⟨finished, .a, _, _, _, _, rfl, rfl, rfl⟩, ?_, ?_, ?_, ?_, ?_, ?_⟩
  all_goals decide +kernel

/-- R109, R112, R106: a hit extends, a masked gate does nothing, a refused claim is told. -/
theorem test_applyGate :
    let e : OutcomeEntry := ⟨0, 0, 0, .completed false [⟨0, .hit ⟨200, 1⟩⟩]⟩
    (((tracking.it.applyGate (context (.tagged 5)) e 0).1.findOpen .a 0 0).map (fun q =>
      (q.2.1.last, q.2.1.hits, q.2.1.peakTof, q.2.1.zoneKind, q.2.1.flags.saturated))) =
        some (4, 2, 1, some 5, true) ∧
    tracking.it.applyGate (context .masked) e 0 = (tracking.it, false) ∧
    ({ demo.it with settings := { demo.it.settings with cap := ⟨0, 0⟩ } } : It).applyGate (context .clear) e 0 =
      ({ demo.it with settings := { demo.it.settings with cap := ⟨0, 0⟩ } }, true) := by decide +kernel

theorem witness_GapsAfterEvaluation :
    (∃ (causes : GapCause → Mask) (c : GapCause), causes c = 0) ∧
    (∃ (r : Recorder) (causes : GapCause → Mask) (c : GapCause), causes c ≠ 0 ∧ r.gr.gaps.get c = none) ∧
    (∃ (r : Recorder) (causes : GapCause → Mask) (c : GapCause) (g : Gap), causes c ≠ 0 ∧ r.gr.gaps.get c = some g) ∧
    (∃ (l : Li) (x : Side), l.gap.get x = none) ∧
    (∃ (l : Li) (x : Side) (p : Pending GapReport), l.gap.get x = some p ∧ p.report.ranges.length = 7) ∧
    (∃ (l : Li) (x : Side) (p : Pending GapReport) (before : List GapRange) (r : GapRange), l.gap.get x = some p ∧
      p.report.ranges = before ++ [r] ∧ p.report.ranges.length = 8) := by
  let g : GapRange := ⟨1, 2, 1, 1, 1, false⟩
  let l := fun n : Nat => { demo.li with gap := ⟨some ⟨7, ⟨List.replicate n g⟩⟩, none⟩ }
  exact ⟨⟨fun _ => 0, .overrun, rfl⟩, ⟨⟨Gr.reset, demo.li⟩, fun _ => 1, .overrun, by decide, rfl⟩,
    ⟨⟨⟨⟨some ⟨1, 1, 1⟩, none, none, none, none⟩⟩, demo.li⟩, fun _ => 1, .overrun, _, by decide, rfl⟩,
    ⟨demo.li, .a, rfl⟩, ⟨l 7, .a, _, rfl, rfl⟩, ⟨l 8, .a, _, List.replicate 7 g, g, rfl, rfl, rfl⟩⟩

theorem witness_SwapAndRecordAtBoundary :
    (∃ (s : State) (z : Int), live s ∧ s.boundary = some z ∧ s.ps.swapPending = true ∧ enginesIdle s = true) ∧
    (∃ s : State, s.boundary = none) ∧ (∃ s : State, s.ps.swapPending = false) ∧ (∃ s : State, enginesIdle s = false) ∧
    (∃ (s : State) (x : Side) (ch : Channel) (r : ChannelRecord), live s ∧ s.boundary.isSome ∧
      (s.sc.get x).pendingRecords[ch] = some r) ∧
    (∃ (s : State) (x : Side) (ch : Channel) (r : ChannelRecord), live s ∧ s.rc.run = .idle ∧
      (s.sc.get x).pendingRecords[ch] = some r) ∧
    (∃ s : State, s.rc.run ≠ .idle ∧ s.boundary = none) ∧
    (∃ (s : State) (x : Side) (ch : Channel), (s.sc.get x).pendingRecords[ch] = none) := by
  let pend := fun s : State => sideA (fun sc =>
    { sc with pendingRecords := (Vector.replicate 12 none).set 11 (some ⟨.pe, 0, 1, 15⟩) }) s
  exact ⟨⟨(demo.setPs { demo.ps with swapPending := true }).setBoundary (some 1), 1, rfl, rfl, rfl, rfl⟩, ⟨demo, rfl⟩,
    ⟨demo, rfl⟩, ⟨firing, rfl⟩, ⟨(pend demo).setBoundary (some 1), .a, 11, ⟨.pe, 0, 1, 15⟩, rfl, rfl, by decide⟩,
    ⟨pend State.reset, .a, 11, ⟨.pe, 0, 1, 15⟩, rfl, rfl, by decide⟩, ⟨demo, by decide, rfl⟩,
    demo, .a, 11, by decide⟩

theorem witness_ClusterRelease :
    (live sealed ∧ sealed.rc.run ≠ .stopping ∧
      sealed.it.front = some (5, demoIndication, ⟨11, 1, some .due⟩) ∧ sealed.li.flawQueue.length < 24) ∧
    (demo.rc.run ≠ .stopping ∧ demo.it.front = none) ∧
    (∃ s : State, s.rc.run ≠ .stopping ∧ 24 ≤ s.li.flawQueue.length) := by
  let report : Pending FlawReport := ⟨0, ⟨.a, 0, 0, 0, 0, .due, 0, 0, []⟩⟩
  refine ⟨?_, ?_, sealed.setLi { sealed.li with flawQueue := List.replicate 24 report }, ?_⟩
  · unfold live; decide +kernel
  · decide +kernel
  · decide

/-- The entries of `clustered` in use. -/
theorem clustered_held {i : Fin 64} {a : Indication} {m : Membership} (h : clustered.table[i] = .held a m) :
    (i = 6 ∧ a = heldIndication ∧ m = ⟨6, 1, some ⟨11, 1, none⟩⟩) ∨
    (i = 8 ∧ a = heldIndication ∧ m = ⟨8, 1, some ⟨20, 2, none⟩⟩) ∨ (i = 9 ∧ a = demoIndication ∧ m = ⟨8, 2, none⟩) := by
  have free : ∀ i : Fin 64, i ≠ 6 → i ≠ 8 → i ≠ 9 → clustered.table[i] = .free := by decide
  by_cases h6 : i = 6
  · subst h6; cases h; exact .inl ⟨rfl, rfl, rfl⟩
  · by_cases h8 : i = 8
    · subst h8; cases h; exact .inr (.inl ⟨rfl, rfl, rfl⟩)
    · by_cases h9 : i = 9
      · subst h9; cases h; exact .inr (.inr ⟨rfl, rfl, rfl⟩)
      · rw [free i h6 h8 h9] at h; cases h

/-- A table with the cluster law, one of its heads, and the cases of cluster formation: no candidate, one with a free
place, one full, two that merge, and two that do not. -/
theorem witness_clusters :
    (clusterLaw clustered ∧ clustered.table[(8 : Fin 64)] = .held heldIndication ⟨8, 1, some ⟨20, 2, none⟩⟩) ∧
    (clustered.candidates { demoIndication with side := .b } = [] ∧
      clustered.candidates demoIndication = [(6, ⟨11, 1, none⟩), (8, ⟨20, 2, none⟩)]) ∧
    (((heads68 7 1).setEntry 8 .free).candidates demoIndication = [(6, ⟨11, 7, none⟩)] ∧
      ((heads68 8 1).setEntry 8 .free).candidates demoIndication = [(6, ⟨11, 8, none⟩)]) ∧
    ((heads68 8 8).candidates demoIndication = [(6, ⟨11, 8, none⟩)] ++ (8, ⟨20, 8, none⟩) :: [] ∧
      (heads68 8 7).candidates demoIndication = [(6, ⟨11, 8, none⟩)] ++ (8, ⟨20, 7, none⟩) :: []) ∧
    (∀ (b : Indication) (m : Membership), clustered.table[(5 : Fin 64)] ≠ .held b m) ∧
    ([((6 : Fin 64), (⟨11, 1, none⟩ : Cluster)), (8, ⟨20, 2, none⟩)].Pairwise (fun p q => p.1 < q.1)) := by
  refine ⟨⟨⟨?_, ?_, ?_⟩, by decide⟩, by decide +kernel, by decide +kernel, by decide +kernel, ?_, by decide⟩
  · intro i a m h
    rcases clustered_held h with ⟨rfl, rfl, rfl⟩ | ⟨rfl, rfl, rfl⟩ | ⟨rfl, rfl, rfl⟩
    · exact ⟨by decide, heldIndication, 1, ⟨11, 1, none⟩, by decide⟩
    · exact ⟨by decide, heldIndication, 1, ⟨20, 2, none⟩, by decide⟩
    · exact ⟨by decide, heldIndication, 1, ⟨20, 2, none⟩, by decide⟩
  · intro i j a b m n h k
    rcases clustered_held h with ⟨rfl, rfl, rfl⟩ | ⟨rfl, rfl, rfl⟩ | ⟨rfl, rfl, rfl⟩ <;>
      rcases clustered_held k with ⟨rfl, rfl, rfl⟩ | ⟨rfl, rfl, rfl⟩ | ⟨rfl, rfl, rfl⟩ <;> decide
  · intro h a o c hc k h1 h2
    rcases clustered_held hc with ⟨rfl, _, hm⟩ | ⟨rfl, _, hm⟩ | ⟨rfl, _, hm⟩ <;> cases hm
    · exact ⟨6, heldIndication, ⟨6, 1, some ⟨11, 1, none⟩⟩, by decide, rfl, (Nat.le_antisymm h2 h1).symm⟩
    · rcases Nat.eq_or_lt_of_le h1 with h1 | h1
      · exact ⟨8, heldIndication, ⟨8, 1, some ⟨20, 2, none⟩⟩, by decide, rfl, h1⟩
      · exact ⟨9, demoIndication, ⟨8, 2, none⟩, by decide, rfl, Nat.le_antisymm h1 h2⟩
  · intro b m h
    rcases clustered_held h with ⟨h, _⟩ | ⟨h, _⟩ | ⟨h, _⟩ <;> cases h

/-- R132: the merge of `clustered`'s two clusters with a joiner at entry 5: four members of head 6, numbered in order. -/
theorem test_merge :
    let t := clustered.merge 5 demoIndication 6 [(6, ⟨11, 1, none⟩), (8, ⟨20, 2, none⟩)]
    t.table[(6 : Fin 64)] = .held heldIndication ⟨6, 1, some ⟨20, 4, none⟩⟩ ∧
    t.table[(8 : Fin 64)] = .held heldIndication ⟨6, 2, none⟩ ∧ t.table[(9 : Fin 64)] = .held demoIndication ⟨6, 3, none⟩ ∧
    t.table[(5 : Fin 64)] = .held demoIndication ⟨6, 4, none⟩ := by decide

/-- CLUSTER_RELEASE in STOPPING: with a front cluster and a free place, with none, and its part in the end of the drain. -/
theorem witness_releaseInStopping :
    let draining := fun s : State => s.setRc ⟨.stopping, .request, .release, .ready⟩
    (live (draining sealed) ∧ (draining sealed).it.front = some (5, demoIndication, ⟨11, 1, some .due⟩) ∧
      (draining sealed).li.flawQueue.length < 24 ∧ (draining sealed).it.empty = false) ∧
    (draining tracking).it.front = none ∧ enginesIdle (draining firing) = false ∧
    (after .clusterRelease (draining sealed)).rc.run = .idle := by unfold live; decide +kernel

theorem witness_DrainSteps :
    (∃ s : State, live s ∧ s.rc.run = .stopping ∧ s.rc.drain = .lists ∧ enginesIdle s = true) ∧
    (∀ b : Bool, ∃ s : State, live s ∧ s.rc.run = .stopping ∧ s.rc.drain = .release ∧ enginesIdle s = true ∧
      s.it.empty = true ∧ s.ps.swapPending = b) ∧
    (∃ s : State, s.rc.run ≠ .stopping) :=
  ⟨⟨demo.setRc ⟨.stopping, .request, .lists, .ready⟩, by unfold live; decide⟩,
    fun b => ⟨(demo.setRc ⟨.stopping, .request, .release, .ready⟩).setPs { demo.ps with swapPending := b },
      rfl, rfl, rfl, rfl, by cases b <;> decide, rfl⟩,
    ⟨demo, by decide⟩⟩

/-- The receiver holding these bytes of a frame. -/
def assembling (buffer : List Byte) (s : State) : State :=
  s.setLi { s.li with receiver := ⟨true, buffer, false, some 1760⟩ }

theorem witness_CharacterInHunting :
    live demo ∧ demo.li.receiver.assembling = false ∧ demo.li.receiver.unmarkedRun = false ∧
    (demo.setLi { demo.li with receiver := ⟨false, [], true, none⟩ }).li.receiver.unmarkedRun = true := by
  unfold live; decide

/-- Each branch for an unmarked character: a length of 241, a further byte of a frame, a wrong check, a good frame with
a free buffer, and one without. -/
theorem witness_CharacterInAssembling :
    let full := frameBytes classRequest 0x01 0x07 []
    let n := fun b : List Byte => (b.getD 1 0#8).toNat
    (live (assembling [0xA1#8] demo) ∧ (assembling [0xA1#8] demo).li.receiver.assembling = true) ∧
    (([0xA1#8] ++ [241#8]).length = 2 ∧ 240 < n ([0xA1#8] ++ [241#8])) ∧
    (([0xA1#8] ++ [240#8]).length ≠ n ([0xA1#8] ++ [240#8]) + 6) ∧
    (full.length = n full + 6 ∧
      be16 (frameCheck ((full.drop 1).take (n full + 3))).toNat = full.drop (n full + 4)) ∧
    (be16 (frameCheck (([0xA1#8, 0#8, 1#8, 7#8, 0#8, 0#8].drop 1).take 3)).toNat ≠ [0#8, 0#8]) := by
  unfold live; decide +kernel

theorem witness_IdleTimerAndHoldIn :
    (∃ (s : State) (t : Nat), live s ∧ s.li.receiver.idle = some t) ∧ (∃ s : State, s.li.receiver.idle = none) ∧
    (∃ s : State, live s) ∧ (∃ s : State, s.li.holdIn = true) ∧ (∃ s : State, live s ∧ s.li.tx ≠ none) ∧
    (∃ s : State, live s ∧ s.li.reply = none ∧ s.li.candidates = []) :=
  ⟨⟨assembling [0xA1#8] demo, 1760, rfl, rfl⟩, ⟨demo, rfl⟩, ⟨demo, rfl⟩,
    ⟨demo.setLi { demo.li with holdIn := true }, rfl⟩,
    ⟨demo.setLi { demo.li with tx := some ⟨.motion, false, [], 0, 0⟩ }, rfl, by decide⟩,
    demo.setLi { demo.li with runstate := none }, rfl, rfl, rfl⟩

/-- The link with nothing to send. -/
def quiet (s : State) : State := s.setLi { s.li with runstate := none }

theorem witness_TransmissionStart :
    let base := quiet demo
    let ok := fun s : State => live s ∧ s.li.tx = none ∧ s.li.holdIn = false
    let with' := fun l : Li => base.setLi l
    (ok base ∧ base.li.choice = none) ∧
    (ok (with' { base.li with reply := some ⟨1, 2, [0], false⟩ })) ∧
    (ok demo ∧ demo.li.choice = some .runstate) ∧
    ((with' { base.li with motion := some ⟨7, base.du.motionReport⟩ }).li.choice = some .motion) ∧
    (∀ x : Side, (with' { base.li with side := base.li.side.set x (some ⟨7, ⟨1, true⟩⟩) }).li.choice = some (.side x)) ∧
    (∀ x : Side, (with' { base.li with coupling := base.li.coupling.set x (some ⟨7, ⟨1, true⟩⟩) }).li.choice =
      some (.coupling x)) ∧
    (∀ x : Side, (with' { base.li with gap := base.li.gap.set x (some ⟨7, ⟨[]⟩⟩) }).li.choice = some (.gap x)) ∧
    ((with' { base.li with flawQueue := [⟨7, ⟨.a, 0, 0, 0, 0, .due, 0, 0, []⟩⟩] }).li.choice = some .flaw) := by
  refine ⟨?_, ?_, ?_, ?_, ?_, ?_, ?_, ?_⟩
  any_goals (intro x; cases x <;> decide)
  all_goals (try unfold live); decide

/-- The ordinals 65535 and 0: the older is 65535, counted from a base of 65535 and from one of 32768. -/
theorem witness_OldestReportChosen :
    let l := { demo.li with motion := some ⟨0#16, demo.du.motionReport⟩, runstate := some ⟨65535#16, RunstateReport.powerOn⟩ }
    l.reply = none ∧ (l.candidates.all (fun c => (c.ordinal - 65535#16).toNat ≤ 32767)) = true ∧
    l.choice = some .runstate := by decide

theorem witness_TransmissionEnd :
    (∃ (s : State) (t : TxFrame), live s ∧ s.li.tx = some t) ∧ (∃ s : State, s.li.tx = none) :=
  ⟨⟨after .transmissionStart demo, _, rfl, rfl⟩, demo, rfl⟩

theorem witness_Outputs :
    (∃ s : State, live s) ∧ (∃ s : State, s.pinReset = true) ∧ (∃ s : State, s.li.tx = none) ∧
    (∃ (s : State) (f : TxFrame) (n i r : Nat) (c : Character), live s ∧ s.li.tx = some f ∧
      f.characters[n]? = some c ∧ i < 11 ∧ r < 40 ∧ s.li.rate = .half ∧ s.now = f.start + (11 * n + i) * 40 + r) ∧
    (∃ (s : State) (f : TxFrame), live s ∧ s.li.tx = some f ∧ s.li.rate = .half ∧
      f.start + 11 * f.characters.length * 40 ≤ s.now) := by
  let f : TxFrame := ⟨.motion, false, [⟨0xA3#8, true, true⟩], 0, 440⟩
  let s := demo.setLi { demo.li with tx := some f }
  exact ⟨⟨demo, rfl⟩, ⟨{ demo with pinReset := true }, rfl⟩, ⟨demo, rfl⟩,
    ⟨s.advanceTo 439, f, 0, 10, 39, _, rfl, rfl, rfl, by decide, by decide, rfl, by decide⟩,
    ⟨s.advanceTo 440, f, rfl, rfl, rfl, by decide⟩⟩

theorem witness_Resets :
    (∃ s : State, live s ∧ s.rc.handler = .awaitingReset .run true ∧ s.li.held = []) ∧
    (∃ s : State, live s ∧ s.rc.handler = .awaitingReset .full true) ∧
    (∃ s : State, s.rc.handler ≠ .awaitingReset .run true ∧ s.rc.handler ≠ .awaitingReset .full true) ∧
    (∃ (s : State) (c : Instr), s.pinReset = true ∧ ∀ after pins, c ≠ .pinResetRelease after pins) ∧
    (∀ k : Byte, ∃ (s : State) (f : Frame) (rest : List Frame), live s ∧ s.rc.handler = .awaitingReset .run true ∧
      s.li.held = f :: rest ∧ f.kind = k) :=
  ⟨⟨demo.setRc { demo.rc with handler := .awaitingReset .run true }, rfl, rfl, rfl⟩,
    ⟨demo.setRc { demo.rc with handler := .awaitingReset .full true }, rfl, rfl⟩, ⟨demo, by decide⟩,
    ⟨{ demo with pinReset := true }, .identify, rfl, fun _ _ h => by cases h⟩,
    fun k => ⟨holding (requestFrame k []) (demo.setRc { demo.rc with handler := .awaitingReset .run true }), _, _, rfl,
      rfl, rfl, rfl⟩⟩

/-- A state with each law, and a step from it. -/
theorem witness_laws :
    let s := { tracking with pending := [.reverseCount 1] }
    (∃ t, step s = .next t) ∧ s.du.law ∧ keysUnique s.it ∧ s.li.law ∧ runLaw s := by
  refine ⟨⟨_, rfl⟩, ?_, ?_, ?_, ?_⟩
  · refine ⟨by decide, by decide, by decide, by decide, by decide, by decide, by decide, by decide, by decide, by decide,
      fun p h => ?_, fun _ => rfl, by decide⟩
    cases h
  · have free : ∀ i : Fin 64, i ≠ 5 → tracking.it.table[i] = .free := by decide
    have only : ∀ (i : Fin 64) (a : Indication) (m : Nat), tracking.it.table[i] = .opened a m → i = 5 := by
      intro i a m h
      by_cases hi : i = 5
      · exact hi
      · rw [free i hi] at h
        cases h
    intro i j a b m n h k _ _ _
    exact (only i a m h).trans (only j b n k).symm
  · refine ⟨⟨fun _ => ⟨rfl, rfl⟩, fun h => ?_⟩, by decide, by decide, fun x p h => ?_⟩
    · cases h
    · cases x <;> cases h
  · exact ⟨fun h => (by cases h), fun _ => rfl⟩

/-- The entries of `lawful` in use. -/
theorem lawful_held {i : Fin 64} {a : Indication} {m : Membership} (h : lawful.it.table[i] = .held a m) :
    i = 6 ∧ a = heldIndication ∧ m = ⟨6, 1, some ⟨4, 1, some .due⟩⟩ := by
  have other : ∀ i : Fin 64, i ≠ 6 → i ≠ 5 → lawful.it.table[i] = .free := by decide
  by_cases h6 : i = 6
  · subst h6; cases h; exact ⟨rfl, rfl, rfl⟩
  · by_cases h5 : i = 5
    · subst h5; cases h
    · rw [other i h6 h5] at h; cases h

theorem lawful_open {i : Fin 64} {a : Indication} {n : Nat} (h : lawful.it.table[i] = .opened a n) :
    i = 5 ∧ a = demoIndication ∧ n = 1 := by
  have other : ∀ i : Fin 64, i ≠ 6 → i ≠ 5 → lawful.it.table[i] = .free := by decide
  by_cases h5 : i = 5
  · subst h5; cases h; exact ⟨rfl, rfl, rfl⟩
  · by_cases h6 : i = 6
    · subst h6; cases h
    · rw [other i h6 h5] at h; cases h

/-- A state with the laws of evaluation and of the table, of the run and of the distance, and steps from it: one that
releases its cluster into the flaw queue, and a request that lowers the high-water mark. -/
theorem witness_trackerLaws :
    let s := { lawful with pending := [.clusterRelease] }
    runLaw s ∧ evaluationLaw s ∧ trackerLaw s ∧ (∃ t, step s = .next t ∧ t.li.flawQueue.length = 1) ∧
    (∃ (u v : State), runLaw u ∧ evaluationLaw u ∧ step u = .next v ∧ v.du.hwm < u.du.hwm) := by
  have eval : ∀ s : State, s.du = lawful.du → s.se = lawful.se → s.it = lawful.it → s.boundary = none →
      evaluationLaw s := by
    intro s hd he hi hb _
    refine ⟨hb, fun x => ⟨?_, fun _ => ?_, fun f hf => ?_⟩, fun _ _ => ?_⟩
    · rw [he]; cases x <;> rfl
    · unfold State.awaiting; rw [hi]; cases x <;> rfl
    · rw [he] at hf; cases x <;> cases hf
    · rw [hd]; decide
  refine ⟨⟨fun h => (by cases h), fun _ => rfl⟩, eval _ rfl rfl rfl rfl, fun _ => ⟨?_, ?_, ⟨?_, ?_, ?_⟩, ?_, ?_⟩, ?_, ?_⟩
  · refine ⟨by decide, by decide, by decide, by decide, by decide, by decide, fun x => ?_⟩
    cases x <;> decide
  · intro x
    cases x <;> decide +kernel
  · intro i a m h
    obtain ⟨rfl, rfl, rfl⟩ := lawful_held h
    exact ⟨by decide, heldIndication, 1, ⟨4, 1, some .due⟩, by decide⟩
  · intro i j a b m n h k _ _
    exact (lawful_held h).1.trans (lawful_held k).1.symm
  · intro h a o c hc k h1 h2
    obtain ⟨rfl, _, hm⟩ := lawful_held hc
    cases hm
    exact ⟨6, heldIndication, ⟨6, 1, some ⟨4, 1, some .due⟩⟩, by decide, rfl, (Nat.le_antisymm h2 h1).symm⟩
  · intro i a m h
    obtain ⟨-, rfl, -⟩ := lawful_held h
    unfold Indication.closedLaw; decide
  · intro i a n h
    obtain ⟨-, rfl, rfl⟩ := lawful_open h
    unfold Indication.openLaw; decide
  · exact ⟨_, rfl, by decide +kernel⟩
  · let idle := inRun .idle (lawful.setIt demo.it)
    let u := { holding (requestFrame 0x04 [0, 0, 0, 0]) idle with pending := [.presetPosition] }
    refine ⟨u, _, ⟨fun _ => ?_, fun _ => rfl⟩, fun _ => ⟨rfl, fun x => ⟨?_, fun _ => ?_, fun f hf => ?_⟩, fun h => ?_⟩, rfl, ?_⟩
    · exact ⟨rfl, by decide, rfl, rfl, rfl⟩
    · cases x <;> rfl
    · cases x <;> rfl
    · cases x <;> cases hf
    · cases h
    · decide +kernel

/-- A FIRING engine with the law of evaluation. -/
theorem witness_firingLaw :
    let s := { (firing.setDu { firing.du with step := 1, hwm := 1 }).setIt
      { firing.it with verdicts := ⟨[⟨1, Vector.replicate 12 .clear⟩], []⟩ } with pending := [.shotCompletion .a .good []] }
    evaluationLaw s ∧ runLaw s ∧ ∃ t, step s = .next t := by
  refine ⟨fun _ => ⟨rfl, fun x => ⟨?_, fun h => ?_, fun f hf => ?_⟩, fun _ _ => by decide⟩, ⟨fun h => (by cases h), fun _ => rfl⟩,
    _, rfl⟩
  · cases x <;> rfl
  · cases x
    · cases h
    · rfl
  · cases x
    · cases hf
      exact ⟨by decide, by decide, by decide, by decide, fun fl h => by cases h; rfl⟩
    · cases hf

/-- A planned list keeps the laws of the plans, of the coupling ratings and of the sides. -/
theorem witness_planLaws :
    let s := { demo with pending := [.reverseCount 1] }
    (∃ t, step s = .next t) ∧ plansCurrent s ∧ couplingLaw s ∧ sideLaw s := by
  refine ⟨⟨_, rfl⟩, fun x => ?_, fun x => ?_, fun x => ?_⟩
  · cases x
    · refine ⟨⟨by decide, by decide +kernel, fun p h => ?_⟩, by decide, by decide, fun p h => ?_⟩
      · cases h with
        | head => decide +kernel
        | tail _ h => cases h
      · cases h
    · exact ⟨⟨by decide, by decide, fun p h => by cases h⟩, by decide, by decide, fun p h => by cases h⟩
  · cases x <;> exact ⟨by decide, by decide⟩
  · cases x <;> unfold Sc.law <;> decide

end Sys2Proof.Tests
end

/-!
The step-length table of the Distance Unit (R3): one equation per pattern, and the bound on the extra count from
which the bounds on a step's length follow.
-/
namespace Sys2Proof.Machine

/-! ## The extra count, one row of R3's table each -/

@[simp] theorem extraCount_pattern_zero (z : Int) : extraCount 0 z = 0 := rfl

@[simp] theorem extraCount_pattern_one (z : Int) : extraCount 1 z = if z % 4 = 1 then 1 else 0 := rfl

@[simp] theorem extraCount_pattern_two (z : Int) :
    extraCount 2 z = if z % 4 = 0 ∨ z % 4 = 2 then 1 else 0 := rfl

@[simp] theorem extraCount_pattern_three (z : Int) : extraCount 3 z = if z % 4 = 3 then 0 else 1 := rfl

theorem extraCount_le_one (k : Nat) (z : Int) : extraCount k z ≤ 1 := by
  unfold extraCount
  split
  · exact Nat.zero_le 1
  all_goals split <;> decide

/-! ## The length of a step -/

theorem Du.stepLength_eq (d : Du) (z : Int) : d.stepLength z = d.n + extraCount d.k z := rfl

theorem Du.le_stepLength (d : Du) (z : Int) : d.n ≤ d.stepLength z := Nat.le_add_right _ _

theorem Du.stepLength_le_succ (d : Du) (z : Int) : d.stepLength z ≤ d.n + 1 :=
  Nat.add_le_add_left (extraCount_le_one d.k z) d.n

/-- Settles O4: each row is the extra count of its pattern, and the bounds on N carry over because a step is N or
N + 1 counts long. -/
theorem stepLengthTable : Obligations.StepLengthTable := by
  intro d z hpos hmax _
  refine ⟨fun hk => ?zero, fun hk => ?one, fun hk => ?two, fun hk => ?three, ?lower, ?upper⟩
  case zero => rw [d.stepLength_eq, hk, extraCount_pattern_zero, Nat.add_zero]
  case one => rw [d.stepLength_eq, hk, extraCount_pattern_one]
  case two => rw [d.stepLength_eq, hk, extraCount_pattern_two]
  case three => rw [d.stepLength_eq, hk, extraCount_pattern_three]
  case lower => exact Nat.le_trans hpos (d.le_stepLength z)
  case upper => exact Nat.le_trans (d.stepLength_le_succ z) (Nat.succ_le_succ hmax)

end Sys2Proof.Machine

/-!
The effective roles of the channels (R32), one equation per row of its table, and which shots are executable (R33).
-/
namespace Sys2Proof.Machine

/-! ## Pairing -/

theorem Sc.paired_iff (sc : Sc) (c : Channel) (want : Role) : sc.paired c want = true ↔
    sc.channels[sc.channels[c].partner].role = want ∧ sc.channels[sc.channels[c].partner].partner = c ∧
      sc.faults[sc.channels[c].partner] = .none := by
  simp [Sc.paired, and_assoc]

/-! ## The rows of R32's table -/

theorem Sc.effectiveRole_off {sc : Sc} {c : Channel} (hrole : sc.channels[c].role = .off) :
    sc.effectiveRole c = .off := if_pos hrole

theorem Sc.effectiveRole_faulted {sc : Sc} {c : Channel} (hrole : sc.channels[c].role ≠ .off)
    (hfault : sc.faults[c] ≠ .none) : sc.effectiveRole c = .faulted := by
  unfold Sc.effectiveRole
  rw [if_neg hrole, if_pos hfault]

theorem Sc.effectiveRole_pe {sc : Sc} {c : Channel} (hfault : sc.faults[c] = .none)
    (hrole : sc.channels[c].role = .pe) : sc.effectiveRole c = .pe := by
  unfold Sc.effectiveRole
  rw [hrole, hfault]
  rfl

theorem Sc.effectiveRole_tx {sc : Sc} {c : Channel} (hfault : sc.faults[c] = .none)
    (hrole : sc.channels[c].role = .tx) :
    sc.effectiveRole c = if sc.paired c .rx then .tx else .unpaired := by
  unfold Sc.effectiveRole
  rw [hrole, hfault]
  rfl

theorem Sc.effectiveRole_rx {sc : Sc} {c : Channel} (hfault : sc.faults[c] = .none)
    (hrole : sc.channels[c].role = .rx) :
    sc.effectiveRole c = if sc.paired c .tx then .rx else .unpaired := by
  unfold Sc.effectiveRole
  rw [hrole, hfault]
  rfl

/-! ## Executable shots -/

theorem Sc.executable_iff (sc : Sc) (sh : Shot) : sc.executable sh = true ↔
    (sh.tx = sh.rx ∧ sc.effectiveRole sh.tx = .pe) ∨
    (sc.effectiveRole sh.tx = .tx ∧ sc.effectiveRole sh.rx = .rx ∧
      sc.channels[sh.tx].partner = sh.rx ∧ sc.channels[sh.rx].partner = sh.tx) := by
  simp [Sc.executable, and_assoc]

/-- Settles O23: each clause is a row of the table; for TX and RX the row is chosen by the pairing test. -/
theorem effectiveRoles : Obligations.EffectiveRoles := by
  refine ⟨fun sc c => ?rows, Sc.executable_iff⟩
  case rows =>
    refine ⟨Sc.effectiveRole_off, Sc.effectiveRole_faulted, Sc.effectiveRole_pe, fun hf hr hp => ?tx,
      fun hf hr hp => ?txUnpaired, fun hf hr hp => ?rx, fun hf hr hp => ?rxUnpaired⟩
    case tx => rw [Sc.effectiveRole_tx hf hr, if_pos ((sc.paired_iff c .rx).2 hp)]
    case txUnpaired => rw [Sc.effectiveRole_tx hf hr, if_neg (mt (sc.paired_iff c .rx).1 hp)]
    case rx => rw [Sc.effectiveRole_rx hf hr, if_pos ((sc.paired_iff c .tx).2 hp)]
    case rxUnpaired => rw [Sc.effectiveRole_rx hf hr, if_neg (mt (sc.paired_iff c .tx).1 hp)]

end Sys2Proof.Machine

/-!
The moves of the side state that requests cause (R22, R24, R26 to R28): entry into ARMING with its look at HVFLT, entry
into LOWERED with the notification of the engine, and from them ARM_SIDE and DISARM_SIDE by side state.
-/
namespace Sys2Proof.Machine

/-! ## The side field -/

/-- A request whose only check is its side, with a byte that names none. -/
theorem checked_side_none {p : List Byte} {a : Answer × State} {s : State} (h : 1 < u8 p 0) :
    checked [sideCheck p] a s = (.range 1, s) := by
  refine checked_some ?_
  rw [sideCheck_eq, decide_eq_true h]
  rfl

/-- A request whose only check is its side, with the code of side `x`. -/
theorem checked_side_of {p : List Byte} {a : Answer × State} {s : State} {x : Side} (h : u8 p 0 = sideCode x) :
    checked [sideCheck p] a s = a := by
  refine checked_none ?_
  rw [sideCheck_of h]
  rfl

/-! ## Entry into ARMING -/

/-- R22, R24: at entry into ARMING the supply fault is taken at once if HVFLT is asserted, and the side is then as if it
had gone to FAULT directly. -/
theorem supplyFaultCheck_enterArming (x : Side) (s : State) :
    supplyFaultCheck x (enterArming x s) =
      if (s.sc.get x).hvflt then raiseSide x .hvFault (s.modifySc x (fun sc =>
        { sc with state := .fault, supply := .off, ramp := none }))
      else s.modifySc x (fun sc =>
        { sc with state := .arming, supply := sc.level, ramp := some (s.now + 600000) }) := by
  have hstate : ((enterArming x s).sc.get x).state = .arming := by simp [enterArming]
  have hflt : ((enterArming x s).sc.get x).hvflt = (s.sc.get x).hvflt := by simp [enterArming]
  simp only [supplyFaultCheck, hstate, hflt, true_and]
  cases (s.sc.get x).hvflt with
  | false => rfl
  | true => simp [supplyFault, enterArming]

/-! ## Entry into LOWERED -/

theorem notifyDeparture_armed {x : Side} {s : State} (h : (s.sc.get x).state ≠ .armed) :
    notifyDeparture x .armed s = abortList x s := if_pos ⟨rfl, h⟩

theorem notifyDeparture_of_ne {x : Side} {was : SideState} {s : State} (h : was ≠ .armed) :
    notifyDeparture x was s = s := if_neg (fun both => h both.1)

theorem lowerSupply_armed {x : Side} {s : State} (h : (s.sc.get x).state = .armed) :
    lowerSupply x s = abortList x (s.modifySc x (Sc.supplyOff .lowered)) := by
  unfold lowerSupply
  rw [h]
  exact notifyDeparture_armed (by simp [Sc.supplyOff])

theorem lowerSupply_of_ne {x : Side} {s : State} (h : (s.sc.get x).state ≠ .armed) :
    lowerSupply x s = s.modifySc x (Sc.supplyOff .lowered) := notifyDeparture_of_ne h

/-! ## ARM_SIDE by side state (R27) -/

theorem armSide_refused {x : Side} {s : State} (h : (s.sc.get x).state = .parked ∨ (s.sc.get x).state = .fault) :
    armSide x s = (.refuse .side, s) := by
  unfold armSide
  rcases h with h | h <;> rw [h]

theorem armSide_ignored {x : Side} {s : State} (h : (s.sc.get x).state = .arming ∨ (s.sc.get x).state = .armed) :
    armSide x s = (.ack [], s) := by
  unfold armSide
  rcases h with h | h <;> rw [h]

theorem armSide_levelOff {x : Side} {s : State} (h : (s.sc.get x).state = .lowered) (hl : (s.sc.get x).level = .off) :
    armSide x s = (.range 0, s) := by
  unfold armSide
  rw [h]
  exact if_pos hl

theorem armSide_enters {x : Side} {s : State} (h : (s.sc.get x).state = .lowered) (hl : (s.sc.get x).level ≠ .off) :
    armSide x s = (.ack [], supplyFaultCheck x (enterArming x s)) := by
  unfold armSide
  rw [h]
  exact if_neg hl

/-- The command carries out ARM_SIDE's body on the frame taken. -/
theorem exec_armSide {s : State} {f : Frame} {rest : List Frame} (h : mayTake s f rest) (hk : f.kind = 0x07#8)
    (hn : f.payload.length = 1) : exec .armSide s = .next (replied f
      (armSideBody f.payload (taken rest s)).1.payload (armSideBody f.payload (taken rest s)).2) :=
  congrArg Host.Outcome.next (handleRequest_replied (q := armSideForm) h hk hn rfl (by decide))

/-! ## DISARM_SIDE by side state (R28) -/

theorem disarmSide_arming {x : Side} {s : State} (h : (s.sc.get x).state = .arming) :
    disarmSide x s = s.modifySc x (Sc.supplyOff .lowered) := by
  unfold disarmSide
  rw [h]
  exact lowerSupply_of_ne (by simp [h])

theorem disarmSide_armed {x : Side} {s : State} (h : (s.sc.get x).state = .armed) :
    disarmSide x s = abortList x (s.modifySc x (Sc.supplyOff .lowered)) := by
  unfold disarmSide
  rw [h]
  exact lowerSupply_armed h

theorem disarmSide_other {x : Side} {s : State} (h : (s.sc.get x).state ≠ .arming)
    (h' : (s.sc.get x).state ≠ .armed) : disarmSide x s = s := by
  unfold disarmSide
  split
  case h_1 | h_2 | h_3 => rfl
  case h_4 hst => exact absurd hst h
  case h_5 hst => exact absurd hst h'

/-- The command carries out DISARM_SIDE's body on the frame taken. -/
theorem exec_disarmSide {s : State} {f : Frame} {rest : List Frame} (h : mayTake s f rest) (hk : f.kind = 0x08#8)
    (hn : f.payload.length = 1) : exec .disarmSide s = .next (replied f
      (disarmSideBody f.payload (taken rest s)).1.payload (disarmSideBody f.payload (taken rest s)).2) :=
  congrArg Host.Outcome.next (handleRequest_replied (q := disarmSideForm) h hk hn rfl (by decide))

/-- R26: an IDLE engine has no list to abort. -/
theorem abortList_none {s : State} {x : Side} (h : (s.se.get x).firing = none) : abortList x s = s := by
  unfold abortList
  rw [h]

end Sys2Proof.Machine

/-! The obligations that carry the name of a function of the model have a namespace of their own. -/
namespace Sys2Proof.Machine.Settled

/-- Settles O18: the side field's check, then ARM_SIDE by the side's state, which taking the frame leaves as it is. -/
theorem armSide : Obligations.ArmSide := by
  intro s f rest h hk hn
  rw [exec_armSide h hk hn]
  unfold armSideBody
  refine ⟨fun hbad => ?noSide, fun x hx => ?side⟩
  case noSide => rw [checked_side_none hbad]; rfl
  case side =>
    rw [checked_side_of hx, sideOfPayload_of hx]
    refine ⟨fun hst => ?refused, fun hst => ?ignored, fun hst hl => ?levelOff, fun hst hl => ?enters⟩
    case refused => rw [armSide_refused (s := taken rest s) hst]; rfl
    case ignored => rw [armSide_ignored (s := taken rest s) hst]; rfl
    case levelOff => rw [armSide_levelOff (s := taken rest s) hst hl]; rfl
    case enters => rw [armSide_enters (s := taken rest s) hst hl, supplyFaultCheck_enterArming]; rfl

/-- Settles O19: the side field's check, then DISARM_SIDE by the side's state; the abort of a list is what the engine's
laws say of it. -/
theorem disarmSide : Obligations.DisarmSide := by
  refine ⟨fun s f rest h hk hn => ?request, fun s x hidle => abortList_none hidle,
    fun s x f hfiring => ⟨abortList_some hfiring, abortList_se hfiring⟩⟩
  case request =>
    rw [exec_disarmSide h hk hn]
    unfold disarmSideBody
    refine ⟨fun hbad => ?noSide, fun x hx => ?side⟩
    case noSide => rw [checked_side_none hbad]; rfl
    case side =>
      rw [checked_side_of hx, sideOfPayload_of hx]
      refine ⟨fun hst => ?arming, fun hst => ?armed, fun hst hst' => ?other⟩
      case arming => rw [disarmSide_arming (s := taken rest s) hst]; rfl
      case armed => rw [disarmSide_armed (s := taken rest s) hst]; rfl
      case other => rw [disarmSide_other (s := taken rest s) hst hst']; rfl

end Sys2Proof.Machine.Settled

/-!
SET_TRACKING (R124): what a request with a list of checks in field order replies, one check at a time, and the request.
-/
namespace Sys2Proof.Machine

/-! ## The checks of a request, in their order -/

/-- R172, R173: the state after a request with this answer and effect. -/
def repliedWith (f : Frame) (r : Answer × State) : State := replied f r.1.payload r.2

theorem checked_nil (a : Answer × State) (s : State) : checked [] a s = a := checked_none rfl

/-- A check whose index is no more than the later ones': if it fails, its index is the one named. -/
theorem checked_cons {i : Nat} {b : Bool} {cs : List (Nat × Bool)} (a : Answer × State) (s : State)
    (hmin : ∀ c ∈ cs, i ≤ c.1) : checked ((i, b) :: cs) a s = if b then (.range i, s) else checked cs a s := by
  cases b with
  | false => simp only [checked, lowestFailing_cons, Bool.false_eq_true, if_false]
  | true =>
    refine checked_some (lowestFailing_eq_some.2 ⟨List.mem_cons_self, fun j hj => ?_⟩)
    rcases List.mem_cons.1 hj with heq | htail
    · exact Nat.le_of_eq (Prod.mk.inj heq).1.symm
    · exact hmin _ htail

theorem repliedWith_checked_cons {f : Frame} {i : Nat} {b : Bool} {cs : List (Nat × Bool)} {a : Answer × State}
    {s : State} (hmin : ∀ c ∈ cs, i ≤ c.1) : repliedWith f (checked ((i, b) :: cs) a s) =
      if b then replied f [0x03#8, byte i] s else repliedWith f (checked cs a s) := by
  rw [checked_cons a s hmin, apply_ite (repliedWith f)]
  rfl

/-- A byte is never out of a range that every byte lies in. -/
theorem outside_byte (p : List Byte) (i : Nat) : outside 0 255 (u8 p i) = false := by
  have hlt := u8_lt p i
  rw [outside_eq, decide_eq_false_iff_not]
  omega

theorem gateIdle_of_ne {r : RunState} (h : r ≠ .idle) : gateIdle r = some .state := by
  cases r with
  | idle => exact absurd rfl h
  | running | stopping => rfl

/-! ## SET_TRACKING -/

/-- R124: the six settings that a payload brings. -/
def trackingOfPayload (p : List Byte) : Tracking := ⟨u8 p 0, u8 p 1, u16 p 2, u8 p 4, ⟨u8 p 5, u8 p 6⟩⟩

/-- The body's answer and effect, field by field; the window's check never fails. -/
theorem repliedWith_setTrackingBody (f : Frame) (p : List Byte) (s : State) :
    repliedWith f (setTrackingBody p s) =
      if 7 < u8 p 0 then replied f [0x03#8, 1#8] s
      else if u8 p 1 < 1 ∨ 15 < u8 p 1 then replied f [0x03#8, 2#8] s
      else if u16 p 2 < 16 ∨ 4096 < u16 p 2 then replied f [0x03#8, 3#8] s
      else if u8 p 5 < 8 ∨ 56 < u8 p 5 then replied f [0x03#8, 5#8] s
      else if u8 p 6 < 8 ∨ 56 < u8 p 6 then replied f [0x03#8, 6#8] s
      else replied f [0x00#8] (s.setIt { s.it with settings := trackingOfPayload p }) := by
  unfold setTrackingBody
  simp only [outside_byte]
  rw [repliedWith_checked_cons (by simp), repliedWith_checked_cons (by simp), repliedWith_checked_cons (by simp),
    repliedWith_checked_cons (by simp), repliedWith_checked_cons (by simp), repliedWith_checked_cons (by simp),
    checked_nil]
  simp only [outside_eq, decide_eq_true_eq, Nat.not_lt_zero, false_or, Bool.false_eq_true, if_false]
  rfl

/-- Settles O28: outside IDLE the run state's gate refuses; in IDLE the body answers. -/
theorem setTracking : Obligations.SetTracking := by
  intro s f rest h hk hn
  refine ⟨fun hrun => ?refused, fun hidle => ?answered⟩
  case refused =>
    exact congrArg Host.Outcome.next (handleRequest_gate (q := setTrackingForm) h hk hn (gateIdle_of_ne hrun))
  case answered =>
    have hgate : gateIdle s.rc.run = none := congrArg gateIdle hidle
    have hreply := handleRequest_replied (q := setTrackingForm) h hk hn hgate (by decide)
    exact congrArg Host.Outcome.next
      (hreply.trans (repliedWith_setTrackingBody f f.payload (taken rest s)))

end Sys2Proof.Machine

/-!
The zone outcome of a channel (R118, R119): which zones cover, and one equation for each outcome.
-/
namespace Sys2Proof.Machine

/-! ## Covering -/

theorem Zone.covers_iff {zn : Zone} {offset step : Int} {c : Channel} : zn.covers offset step c = true ↔
    zn.enable = true ∧ zn.channels.getLsbD c.val = true ∧ zn.start ≤ step + offset ∧ step + offset ≤ zn.stop := by
  simp [Zone.covers, and_assoc]

/-- R119: the zones that cover a channel at a fire step, in the order of their numbers. -/
def coveringZones (zones : Vector Zone 8) (offset step : Int) (c : Channel) : List Zone :=
  zones.toList.filter (fun zn => zn.covers offset step c)

theorem mem_coveringZones {zones : Vector Zone 8} {offset step : Int} {c : Channel} {zn : Zone} :
    zn ∈ coveringZones zones offset step c ↔ ∃ i : Fin 8, zones[i].covers offset step c = true ∧ zones[i] = zn := by
  unfold coveringZones
  rw [List.mem_filter, Vector.mem_toList_iff, Vector.mem_iff_getElem]
  constructor
  · rintro ⟨⟨i, hi, rfl⟩, hcov⟩
    exact ⟨⟨i, hi⟩, hcov, rfl⟩
  · rintro ⟨i, hcov, rfl⟩
    exact ⟨⟨i.val, i.isLt, rfl⟩, hcov⟩

/-- The covering zone of the lowest number stands first. -/
theorem coveringZones_eq_cons {zones : Vector Zone 8} {offset step : Int} {c : Channel} {i : Fin 8}
    (hcov : zones[i].covers offset step c = true)
    (hfirst : ∀ j : Fin 8, zones[j].covers offset step c = true → i ≤ j) :
    ∃ others, coveringZones zones offset step c = zones[i] :: others := by
  refine List.head?_eq_some_iff.1 ?_
  unfold coveringZones
  rw [List.head?_filter, List.find?_eq_some_iff_getElem]
  refine ⟨hcov, i.val, by simp, by simp, fun j hj => ?_⟩
  have hnot : ¬ zones[j].covers offset step c = true :=
    fun hcovj => absurd (hfirst ⟨j, Nat.lt_trans hj i.isLt⟩ hcovj) (Nat.not_le_of_lt hj)
  simpa using hnot

/-! ## The three outcomes -/

/-- MASK prevails over TAG, whatever their numbers. -/
theorem zoneOutcome_masked {zones : Vector Zone 8} {offset step : Int} {c : Channel} {i : Fin 8}
    (hcov : zones[i].covers offset step c = true) (hmask : zones[i].action = .mask) :
    zoneOutcome zones offset step c = .masked :=
  if_pos (List.any_eq_true.2 ⟨_, mem_coveringZones.2 ⟨i, hcov, rfl⟩, decide_eq_true hmask⟩)

theorem zoneOutcome_clear {zones : Vector Zone 8} {offset step : Int} {c : Channel}
    (hnone : ∀ i : Fin 8, ¬ zones[i].covers offset step c = true) : zoneOutcome zones offset step c = .clear := by
  have hempty : coveringZones zones offset step c = [] := by
    refine List.eq_nil_iff_forall_not_mem.2 fun zn hmem => ?_
    obtain ⟨i, hcov, -⟩ := mem_coveringZones.1 hmem
    exact hnone i hcov
  unfold coveringZones at hempty
  unfold zoneOutcome
  rw [hempty]
  rfl

/-- Where TAG zones alone cover, the one of the lowest number gives its kind. -/
theorem zoneOutcome_tagged {zones : Vector Zone 8} {offset step : Int} {c : Channel} {i : Fin 8}
    (hcov : zones[i].covers offset step c = true)
    (htag : ∀ j : Fin 8, zones[j].covers offset step c = true → zones[j].action = .tag)
    (hfirst : ∀ j : Fin 8, zones[j].covers offset step c = true → i ≤ j) :
    zoneOutcome zones offset step c = .tagged zones[i].kind := by
  have hnomask : (coveringZones zones offset step c).any (fun zn => zn.action = .mask) = false := by
    refine List.any_eq_false.2 fun zn hmem => ?_
    obtain ⟨j, hcovj, rfl⟩ := mem_coveringZones.1 hmem
    rw [htag j hcovj]
    decide
  obtain ⟨others, hlist⟩ := coveringZones_eq_cons hcov hfirst
  rw [hlist] at hnomask
  unfold coveringZones at hlist
  unfold zoneOutcome
  rw [hlist]
  exact if_neg (Bool.eq_false_iff.1 hnomask)

end Sys2Proof.Machine

/-! An obligation with the name of a function of the model. -/
namespace Sys2Proof.Machine.Settled

/-- Settles O30: one equation of the zone outcome for each clause. -/
theorem zoneOutcome : Obligations.ZoneOutcome := by
  intro zones offset z c
  refine ⟨fun ⟨i, hcov, hmask⟩ => ?masked, fun i hcov honly => ?tagged, fun hnone => ?clear⟩
  case masked => exact zoneOutcome_masked (Zone.covers_iff.2 hcov) hmask
  case tagged =>
    exact zoneOutcome_tagged (Zone.covers_iff.2 hcov) (fun j hj => (honly j (Zone.covers_iff.1 hj)).1)
      (fun j hj => (honly j (Zone.covers_iff.1 hj)).2)
  case clear => exact zoneOutcome_clear (fun i hcov => hnone i (Zone.covers_iff.1 hcov))

end Sys2Proof.Machine.Settled

/-!
A character at the Frame Receiver (R158, R159, R161, R162): one equation of `Li.hunt`, `Li.assemble`, `Li.takeByte` and
`Li.holdFrame` for each case of the rule, and from them the two obligations on CHARACTER_RECEIVED.
-/
namespace Sys2Proof.Machine

/-! ## CHARACTER_RECEIVED by the receiver's state -/

/-- While RESET_N is released the character is taken at the time it brings. -/
theorem exec_characterReceived_live {s : State} (after : Nat) (c : Character) (hlive : live s) :
    exec (.characterReceived after c) s = .next (characterReceived c (s.advance after)) :=
  congrArg Host.Outcome.next (State.whenLive_advance s after (characterReceived c) hlive)

theorem exec_characterReceived_hunting {s : State} (after : Nat) (c : Character) (hlive : live s)
    (hstate : s.li.receiver.assembling = false) :
    exec (.characterReceived after c) s = .next ((s.advance after).setLi (s.li.hunt (s.now + after) c)) := by
  rw [exec_characterReceived_live after c hlive]
  simp [characterReceived, hstate]

theorem exec_characterReceived_assembling {s : State} (after : Nat) (c : Character) (hlive : live s)
    (hstate : s.li.receiver.assembling = true) :
    exec (.characterReceived after c) s = .next ((s.advance after).setLi (s.li.assemble (s.now + after) c)) := by
  rw [exec_characterReceived_live after c hlive]
  simp [characterReceived, hstate]

/-! ## HUNTING (R158) -/

section Hunting

variable {l : Li} {now : Nat} {c : Character}

theorem Li.hunt_framing (hstop : c.stop = false) :
    l.hunt now c = { l with latches := { l.latches with framing := true } } := by
  simp [Li.hunt, hstop]

theorem Li.hunt_start (hstop : c.stop = true) (hmark : c.mark = true) (hclass : c.data = classRequest) :
    l.hunt now c = l.startFrame now c := by
  simp [Li.hunt, hstop, hmark, hclass]

/-- A marked character of another class ends a run of unmarked ones. -/
theorem Li.hunt_otherMark (hstop : c.stop = true) (hmark : c.mark = true) (hclass : c.data ≠ classRequest) :
    l.hunt now c = { l with
      receiver := { l.receiver with unmarkedRun := false }
      latches := { l.latches with format := true } } := by
  simp [Li.hunt, hstop, hmark, hclass]

theorem Li.hunt_firstUnmarked (hstop : c.stop = true) (hmark : c.mark = false)
    (hrun : l.receiver.unmarkedRun = false) :
    l.hunt now c = { l with
      receiver := { l.receiver with unmarkedRun := true }
      latches := { l.latches with format := true } } := by
  simp [Li.hunt, hstop, hmark, hrun]

theorem Li.hunt_laterUnmarked (hstop : c.stop = true) (hmark : c.mark = false)
    (hrun : l.receiver.unmarkedRun = true) : l.hunt now c = l := by
  simp [Li.hunt, hstop, hmark, hrun]

end Hunting

/-- R160, R161: the frame begins with its class byte, and the idle timer with it. -/
theorem Li.startFrame_eq (l : Li) (now : Nat) {c : Character} (hclass : c.data = classRequest) :
    l.startFrame now c =
      { l with receiver := ⟨true, [classRequest], false, some (now + 4 * l.rate.charTime)⟩ } := by
  rw [Li.startFrame, hclass]
  rfl

/-- Settles O45: in HUNTING each kind of character has its equation of `Li.hunt`. -/
theorem characterInHunting : Obligations.CharacterInHunting := by
  intro s after c hlive hstate with'
  rw [exec_characterReceived_hunting after c hlive hstate]
  refine ⟨fun hstop => ?framing, fun hstop hmark hclass => ?start, fun hstop hmark hclass => ?otherMark,
    fun hstop hmark hrun => ?firstUnmarked, fun hstop hmark hrun => ?laterUnmarked⟩
  case framing => exact congrArg with' (Li.hunt_framing hstop)
  case start => exact congrArg with' ((Li.hunt_start hstop hmark hclass).trans (s.li.startFrame_eq _ hclass))
  case otherMark => exact congrArg with' (Li.hunt_otherMark hstop hmark hclass)
  case firstUnmarked => exact congrArg with' (Li.hunt_firstUnmarked hstop hmark hrun)
  case laterUnmarked => exact congrArg with' (Li.hunt_laterUnmarked hstop hmark hrun)

/-! ## Holding a complete frame (R162) -/

theorem Li.holdFrame_free {l : Li} (f : Frame) (hfree : l.held.length < Config.heldPlaces) :
    l.holdFrame f = { l with held := l.held ++ [f] } := if_pos hfree

theorem Li.holdFrame_full {l : Li} (f : Frame) (hfull : ¬ l.held.length < Config.heldPlaces) :
    l.holdFrame f = { l with latches := { l.latches with overrun := true } } := if_neg hfull

/-! ## A byte of the frame (R159) -/

/-- R157: the computed check against the received one. -/
theorem Receiver.checkGood_iff {buffer : List Byte} : Receiver.checkGood buffer = true ↔
    be16 (frameCheck ((buffer.drop 1).take (Receiver.payloadLength buffer + 3))).toNat =
      buffer.drop (Receiver.payloadLength buffer + 4) := decide_eq_true_iff

section Byte

variable {l : Li} {now : Nat} {b : Byte} {buffer : List Byte} (hbuffer : l.receiver.buffer ++ [b] = buffer)
include hbuffer

theorem Li.takeByte_tooLong (hlong : buffer.length = 2 ∧ Config.maxPayload < Receiver.payloadLength buffer) :
    l.takeByte now b =
      { l with receiver := Receiver.hunting, latches := { l.latches with format := true } } := by
  subst hbuffer
  exact if_pos hlong

/-- Before position n + 6 the byte joins the buffer and the idle timer starts anew. -/
theorem Li.takeByte_incomplete
    (hfits : ¬ (buffer.length = 2 ∧ Config.maxPayload < Receiver.payloadLength buffer))
    (hmore : buffer.length ≠ Receiver.payloadLength buffer + 6) :
    l.takeByte now b = { l with receiver := ⟨true, buffer, false, some (now + 4 * l.rate.charTime)⟩ } := by
  subst hbuffer
  exact (if_neg hfits).trans (if_neg fun hdone => hmore hdone.2)

/-- At position n + 6 the check decides. No length is too long there: the second byte is the length, and n + 6 is past
it. -/
theorem Li.takeByte_complete (hdone : buffer.length = Receiver.payloadLength buffer + 6) :
    l.takeByte now b =
      if Receiver.checkGood buffer then
        ({ l with receiver := Receiver.hunting } : Li).holdFrame (Receiver.frame buffer)
      else { l with receiver := Receiver.hunting, latches := { l.latches with check := true } } := by
  subst hbuffer
  have hpast : 6 ≤ (l.receiver.buffer ++ [b]).length := hdone ▸ Nat.le_add_left 6 _
  exact (if_neg fun hlong => absurd (hlong.1 ▸ hpast) (by decide)).trans
    (if_pos ⟨Nat.le_trans (by decide) hpast, hdone⟩)

theorem Li.takeByte_wrongCheck (hdone : buffer.length = Receiver.payloadLength buffer + 6)
    (hwrong : ¬ Receiver.checkGood buffer = true) :
    l.takeByte now b =
      { l with receiver := Receiver.hunting, latches := { l.latches with check := true } } :=
  (Li.takeByte_complete hbuffer hdone).trans (if_neg hwrong)

theorem Li.takeByte_goodCheck (hdone : buffer.length = Receiver.payloadLength buffer + 6)
    (hgood : Receiver.checkGood buffer = true) :
    l.takeByte now b = ({ l with receiver := Receiver.hunting } : Li).holdFrame (Receiver.frame buffer) :=
  (Li.takeByte_complete hbuffer hdone).trans (if_pos hgood)

end Byte

/-! ## ASSEMBLING (R159, R161) -/

section Assembling

variable {l : Li} {now : Nat} {c : Character}

theorem Li.assemble_framing (hstop : c.stop = false) :
    l.assemble now c =
      { l with receiver := Receiver.hunting, latches := { l.latches with framing := true } } := by
  simp [Li.assemble, hstop]

/-- A marked A1h discards the frame under way and starts the next one. -/
theorem Li.assemble_restart (hstop : c.stop = true) (hmark : c.mark = true) (hclass : c.data = classRequest) :
    l.assemble now c = ({ l with latches := { l.latches with format := true } } : Li).startFrame now c := by
  simp [Li.assemble, hstop, hmark, hclass]

theorem Li.assemble_otherMark (hstop : c.stop = true) (hmark : c.mark = true) (hclass : c.data ≠ classRequest) :
    l.assemble now c =
      { l with receiver := Receiver.hunting, latches := { l.latches with format := true } } := by
  simp [Li.assemble, hstop, hmark, hclass]

theorem Li.assemble_unmarked (hstop : c.stop = true) (hmark : c.mark = false) :
    l.assemble now c = l.takeByte now c.data := by
  simp [Li.assemble, hstop, hmark]

end Assembling

/-- Settles O46: a broken or marked character discards the frame by an equation of `Li.assemble`; an unmarked one is a
byte of the frame, and the branches of the statement are those of `Li.takeByte` and `Li.holdFrame`. -/
theorem characterInAssembling : Obligations.CharacterInAssembling := by
  intro s after c hlive hstate with' hunting timer buffer n received computed frame
  rw [exec_characterReceived_assembling after c hlive hstate]
  refine ⟨fun hstop => ?framing, fun hstop hmark hclass => ?restart, fun hstop hmark hclass => ?otherMark,
    fun hstop hmark => ?unmarked⟩
  case framing => exact congrArg with' (Li.assemble_framing hstop)
  case restart =>
    exact congrArg with' ((Li.assemble_restart hstop hmark hclass).trans (Li.startFrame_eq _ _ hclass))
  case otherMark => exact congrArg with' (Li.assemble_otherMark hstop hmark hclass)
  case unmarked =>
    refine congrArg with' ((Li.assemble_unmarked hstop hmark).trans ?_)
    by_cases hlong : buffer.length = 2 ∧ 240 < n
    case pos =>
      rw [if_pos hlong]
      exact Li.takeByte_tooLong rfl hlong
    rw [if_neg hlong]
    by_cases hdone : buffer.length = n + 6
    case neg =>
      rw [if_pos hdone]
      exact Li.takeByte_incomplete rfl hlong hdone
    rw [if_neg (not_not_intro hdone)]
    by_cases hcheck : computed = received
    case neg =>
      rw [if_pos hcheck]
      exact Li.takeByte_wrongCheck rfl hdone (mt Receiver.checkGood_iff.1 hcheck)
    rw [if_neg (not_not_intro hcheck)]
    refine (Li.takeByte_goodCheck rfl hdone (Receiver.checkGood_iff.2 hcheck)).trans ?_
    by_cases hfree : s.li.held.length < 2
    case pos =>
      rw [if_pos hfree]
      exact Li.holdFrame_free frame hfree
    case neg =>
      rw [if_neg hfree]
      exact Li.holdFrame_full frame hfree

end Sys2Proof.Machine

/-!
START_RUN and STOP_RUN (R174 to R177) with the RUNSTATE trigger that both place (R58, R165, R180): what the trigger makes
of an empty and of a pending slot, START_RUN by run state and plan, the beginning of a stop, and the stop cause through a
drain.
-/
namespace Sys2Proof.Machine

/-! ## The RUNSTATE trigger (R58, R165, R180) -/

/-- A report is created under the next ordinal; without a swap its swap fields are 0 and NONE. -/
theorem placeRunstate_empty {s : State} (hslot : s.li.runstate = none) (causes : RunCauses)
    (swap : Option (Int × SwapPlace)) : placeRunstate causes swap s = { s with li := { s.li with
      runstate := some ⟨s.li.ordinal, ⟨causes, s.rc.run, s.rc.cause, s.du.hwm, s.ps.generation,
        (swap.map Prod.fst).getD 0, (swap.map Prod.snd).getD .none⟩⟩
      ordinal := s.li.ordinal + 1 } } := by
  unfold placeRunstate Li.placeRunstate
  rw [hslot]
  rfl

/-- A pending report is updated under its ordinal; without a swap it keeps its swap fields. -/
theorem placeRunstate_pending {s : State} {p : Pending RunstateReport} (hslot : s.li.runstate = some p)
    (causes : RunCauses) (swap : Option (Int × SwapPlace)) : placeRunstate causes swap s = { s with li := { s.li with
      runstate := some ⟨p.ordinal, ⟨p.report.causes.union causes, s.rc.run, s.rc.cause, s.du.hwm, s.ps.generation,
        (swap.map Prod.fst).getD p.report.swapStep, (swap.map Prod.snd).getD p.report.swapPlace⟩⟩ } } := by
  unfold placeRunstate Li.placeRunstate
  rw [hslot]
  rfl

/-! ## START_RUN (R175) -/

/-- R40: a plan is empty when both its lists are. -/
theorem PerSide.planEmpty_iff {p : PerSide ShotList} : p.planEmpty = true ↔ p.a.shots = [] ∧ p.b.shots = [] := by
  simp [PerSide.planEmpty]

theorem startRunBody_noPlan {p : List Byte} {s : State} (hempty : s.ps.active.planEmpty = true) :
    startRunBody p s = (.refuse .noPlan, s) := if_pos hempty

theorem startRunBody_starts {p : List Byte} {s : State} (hplan : s.ps.active.planEmpty ≠ true) :
    startRunBody p s = (.ack (be16 s.ps.generation.toNat ++ beS32 s.du.hwm), startRun s) := if_neg hplan

theorem exec_startRun_refused {s : State} {f : Frame} {rest : List Frame} {st : Status} (h : mayTake s f rest)
    (hk : f.kind = 0x12#8) (hn : f.payload.length = 0) (hgate : gateStart s.rc.run = some st) :
    exec .startRun s = .next (replied f [st.code] (taken rest s)) :=
  congrArg Host.Outcome.next (handleRequest_gate (q := startRunForm) h hk hn hgate)

/-- In IDLE the command carries out START_RUN's body on the frame taken. -/
theorem exec_startRun_idle {s : State} {f : Frame} {rest : List Frame} (h : mayTake s f rest) (hk : f.kind = 0x12#8)
    (hn : f.payload.length = 0) (hidle : s.rc.run = .idle) : exec .startRun s = .next (replied f
      (startRunBody f.payload (taken rest s)).1.payload (startRunBody f.payload (taken rest s)).2) :=
  congrArg Host.Outcome.next
    (handleRequest_replied (q := startRunForm) h hk hn (congrArg gateStart hidle) (by decide))

/-! ## The beginning of a stop (R174, R176) -/

/-- R178: in LISTS the drain passes to RELEASE exactly when both engines are IDLE. -/
theorem drainTest_lists {s : State} (hrun : s.rc.run = .stopping) (hphase : s.rc.drain = .lists) :
    drainTest s = if enginesIdle s then releasePhase s else s := by
  by_cases hidle : enginesIdle s = true
  case pos => rw [drainTest_ready hrun hphase hidle, if_pos hidle]
  case neg => rw [drainTest_waits (.inr (.inr (Bool.eq_false_iff.2 hidle))), if_neg hidle]

theorem beginStop_of_ne {cause : StopCause} {s : State} (hrun : s.rc.run ≠ .running) : beginStop cause s = s :=
  if_neg hrun

/-- R176: in RUNNING the stop begins, and with both engines IDLE the drain passes to RELEASE at once. -/
theorem beginStop_running {cause : StopCause} {s : State} (hrun : s.rc.run = .running) :
    beginStop cause s =
      let begun := placeRunstate causeStop none
        (s.setRc { s.rc with run := .stopping, cause := cause, drain := .lists })
      if enginesIdle s then releasePhase begun else begun :=
  (if_pos hrun).trans (drainTest_lists rfl rfl)

/-! ## The stop cause through a drain (R174, R178, R179) -/

theorem drainEnd_cause (s : State) : (drainEnd s).rc.cause = s.rc.cause := by
  obtain ⟨_, _, _, _, _, _, _, heq, -⟩ := drainEnd_frame s
  rw [heq]

theorem drainEndTest_cause (s : State) : (drainEndTest s).rc.cause = s.rc.cause := by
  unfold drainEndTest
  split
  · exact drainEnd_cause s
  · rfl

/-- Whether or not the drain ends with it, RELEASE keeps the stop cause. -/
theorem releasePhase_cause (s : State) : (releasePhase s).rc.cause = s.rc.cause := drainEndTest_cause _

/-! ## STOP_RUN (R177) -/

/-- The command begins a stop with cause REQUEST, and the ACK carries the run state and the stop cause that it leaves. -/
theorem exec_stopRun {s : State} {f : Frame} {rest : List Frame} (h : mayTake s f rest) (hk : f.kind = 0x13#8)
    (hn : f.payload.length = 0) : exec .stopRun s = .next (replied f
      [0x00#8, byte (beginStop .request (taken rest s)).rc.run.code,
        byte (beginStop .request (taken rest s)).rc.cause.code]
      (beginStop .request (taken rest s))) :=
  congrArg Host.Outcome.next (handleRequest_replied (q := stopRunForm) h hk hn rfl (by decide))

/-- Settles O32: outside RUNNING no stop begins; in RUNNING it begins with cause REQUEST, which neither the release nor the
end of the drain changes. -/
theorem stopRun : Obligations.StopRun := by
  intro s f rest h hk hn
  rw [exec_stopRun h hk hn]
  refine ⟨fun hrun => ?otherRunState, fun hrun => ?running⟩
  case otherRunState =>
    rw [beginStop_of_ne (s := taken rest s) hrun]
    rfl
  case running =>
    intro begun t
    have hbegins : beginStop .request (taken rest s) = t := beginStop_running (s := taken rest s) hrun
    have hcause : t.rc.cause = .request := by
      show (if enginesIdle s then releasePhase begun else begun).rc.cause = .request
      split
      · exact releasePhase_cause begun
      · rfl
    have hwaits : enginesIdle s = false → t = begun := fun hbusy => if_neg (ne_true_of_eq_false hbusy)
    refine ⟨?reply, fun hbusy => ?waits, hcause⟩
    case reply => rw [hbegins, hcause]; rfl
    case waits => rw [hwaits hbusy]; rfl

end Sys2Proof.Machine

/-! An obligation with the name of a function of the model. -/
namespace Sys2Proof.Machine.Settled

/-- Settles O31: the gate refuses outside IDLE, and in IDLE the body refuses an empty plan; the trigger by its slot. -/
theorem startRun : Obligations.StartRun := by
  refine ⟨fun s f rest h hk hn => ⟨fun hrun => ?running, fun hrun => ?stopping, fun hrun ha hb => ?noPlan,
    fun hrun hplan => ?starts⟩, fun s causes swap => ⟨fun hslot => ?created, fun p hslot => ?updated⟩⟩
  case running => exact exec_startRun_refused h hk hn (congrArg gateStart hrun)
  case stopping => exact exec_startRun_refused h hk hn (congrArg gateStart hrun)
  case noPlan =>
    rw [exec_startRun_idle h hk hn hrun,
      startRunBody_noPlan (s := taken rest s) (PerSide.planEmpty_iff.2 ⟨ha, hb⟩)]
    rfl
  case starts =>
    have hne : s.ps.active.planEmpty ≠ true := fun hempty =>
      hplan.elim (· (PerSide.planEmpty_iff.1 hempty).1) (· (PerSide.planEmpty_iff.1 hempty).2)
    rw [exec_startRun_idle h hk hn hrun, startRunBody_starts (s := taken rest s) hne]
    rfl
  case created =>
    rw [placeRunstate_empty hslot]
    exact ⟨fun hswap => by rw [hswap]; rfl, fun step place hswap => by rw [hswap]; rfl⟩
  case updated =>
    rw [placeRunstate_pending hslot]
    exact ⟨fun hswap => by rw [hswap]; rfl, fun step place hswap => by rw [hswap]; rfl⟩

end Sys2Proof.Machine.Settled

/-!
IDENTIFY and QUERY_STATUS (R185, R186, R189): the bytes of the status reply in terms of the state's fields, with its
flag bytes as sums of weights and its counts as numbers of table entries.
-/
namespace Sys2Proof.Machine

/-! ## Flag bytes -/

/-- What a flag adds to its byte when it stands at bit `n`. -/
def bitWeight (flag : Bool) (n : Nat) : Nat := if flag then 2 ^ n else 0

theorem flagByte_eq_sum (flags : List Bool) :
    flagByte flags = (flags.zipIdx.map (fun q => bitWeight q.1 q.2)).sum := by
  simpa [bitWeight] using flagByte_sum flags 0

/-- R186: the byte of SWAP_PENDING, FAST and ALERT. -/
theorem flagByte_three (b₀ b₁ b₂ : Bool) :
    flagByte [b₀, b₁, b₂] = bitWeight b₀ 0 + bitWeight b₁ 1 + bitWeight b₂ 2 := by
  simp [flagByte_eq_sum, Nat.add_assoc]

/-- R164, R186: the byte of the link latches. -/
theorem LinkLatches.code_eq (l : LinkLatches) : l.code = bitWeight l.framing 0 + bitWeight l.check 1 +
    bitWeight l.timeout 2 + bitWeight l.overrun 3 + bitWeight l.format 4 := by
  simp [LinkLatches.code, flagByte_eq_sum, Nat.add_assoc]

/-- R186: the byte of the occupied status slots. -/
theorem Li.occupancy_eq (l : Li) : l.occupancy = bitWeight l.motion.isSome 0 + bitWeight l.runstate.isSome 1 +
    bitWeight l.side.a.isSome 2 + bitWeight l.side.b.isSome 3 + bitWeight l.coupling.a.isSome 4 +
    bitWeight l.coupling.b.isSome 5 + bitWeight l.gap.a.isSome 6 + bitWeight l.gap.b.isSome 7 := by
  simp [Li.occupancy, flagByte_eq_sum, Nat.add_assoc]

/-! ## Entries of the table -/

/-- R125: the OPEN entries of a side. -/
theorem It.count_openOf (t : It) (x : Side) : t.count (TableEntry.openOf x) =
    ((List.finRange 64).filter (fun i => TableEntry.openOf x t.table[i])).length := It.count_eq (fun _ => rfl)

/-- R125: the HELD entries of a side. -/
theorem It.count_heldOf (t : It) (x : Side) : t.count (TableEntry.heldOf x) =
    ((List.finRange 64).filter (fun i => TableEntry.heldOf x t.table[i])).length := It.count_eq (fun _ => rfl)

/-! ## The two requests -/

theorem exec_identify {s : State} {f : Frame} {rest : List Frame} (h : mayTake s f rest) (hk : f.kind = 0x01#8)
    (hn : f.payload.length = 0) : exec .identify s = .next (replied f (0x00#8 :: identifyData) (taken rest s)) :=
  congrArg Host.Outcome.next (handleRequest_replied (q := identifyForm) h hk hn rfl (by decide))

/-- R164, R186: the reply carries the state as it stands, and the latches it has copied become clear. -/
theorem exec_queryStatus {s : State} {f : Frame} {rest : List Frame} (h : mayTake s f rest) (hk : f.kind = 0x02#8)
    (hn : f.payload.length = 0) : exec .queryStatus s = .next (replied f (0x00#8 :: queryData (taken rest s))
      { taken rest s with li := { s.li with held := rest, latches := ⟨false, false, false, false, false⟩ } }) :=
  congrArg Host.Outcome.next (handleRequest_replied (q := queryStatusForm) h hk hn rfl (by decide))

/-- R186: the data of the status reply are 46 bytes. -/
theorem queryData_length (s : State) : (queryData s).length = 46 := by
  simp [queryData, sideStatus, maskBytes, beS32, be32, be24, be16]

/-- Settles O35: the status data are the model's own, once their flag bytes are sums and their counts are counts of
entries; a channel's mask bits are the tests they are made from; the codes by evaluation. -/
theorem identificationAndStatus : Obligations.IdentificationAndStatus := by
  refine ⟨fun s f rest h hn => ⟨fun hk => ?identify, fun hk => ?status⟩, fun sc c => ?masks, ?codes⟩
  case identify => exact exec_identify h hk hn
  case status =>
    intro t b bit entries side data
    have hside : ∀ x, side x = sideStatus t x := by
      intro x
      unfold sideStatus
      rw [It.count_openOf, It.count_heldOf, It.clusters_eq, It.clustersOnLine_eq]
      rfl
    have hdata : data = queryData t := by
      unfold queryData
      rw [flagByte_three, Li.occupancy_eq, LinkLatches.code_eq, ← hside .a, ← hside .b]
      rfl
    exact ⟨hdata ▸ exec_queryStatus h hk hn, hdata ▸ queryData_length t⟩
  case masks => exact ⟨maskOf_getLsbD _ c, maskOf_getLsbD _ c⟩
  case codes =>
    exact ⟨rfl, rfl, rfl, rfl, fun _ _ => rfl, rfl, rfl, rfl, rfl, rfl, rfl, rfl, rfl, rfl, rfl, rfl, rfl⟩

end Sys2Proof.Machine

/-!
What a step can do, said once (R171, R184): the time that a command's operand lets pass, the effect of a request that is
taken, the event of a command that is no request, and the cases of a step. Every law that the steps keep is proved from
these cases.
-/
namespace Sys2Proof

/-- The time that passes before a command acts (log 4). -/
def Instr.passes : Instr → Nat
  | .forwardCount after _ | .reverseCount after | .illegalTransition after | .carriageInputChange after _
  | .hvrdyArrival after _ | .hvrdyFall after _ | .hvfltAsserted after _ _ | .characterReceived after _
  | .holdInAssert after | .holdInRelease after | .pinResetAssert after | .pinResetRelease after _ => after
  | _ => 0

/-- The request kind whose command this is (R170). -/
def Instr.form : Instr → Option Machine.RequestForm
  | .identify => some Machine.identifyForm
  | .queryStatus => some Machine.queryStatusForm
  | .setOdometry => some Machine.setOdometryForm
  | .presetPosition => some Machine.presetPositionForm
  | .setTracking => some Machine.setTrackingForm
  | .setSide => some Machine.setSideForm
  | .armSide => some Machine.armSideForm
  | .disarmSide => some Machine.disarmSideForm
  | .clearFault => some Machine.clearFaultForm
  | .setChannel => some Machine.setChannelForm
  | .setProfile => some Machine.setProfileForm
  | .writeShot => some Machine.writeShotForm
  | .clearStaged => some Machine.clearStagedForm
  | .readShot => some Machine.readShotForm
  | .swapPlans => some Machine.swapPlansForm
  | .setZone => some Machine.setZoneForm
  | .setOffset => some Machine.setOffsetForm
  | .startRun => some Machine.startRunForm
  | .stopRun => some Machine.stopRunForm
  | .reset => some Machine.resetForm
  | _ => none

end Sys2Proof

namespace Sys2Proof.Machine

/-! ## The command of a request -/

/-- A request's command is the handling of its form, on a state of which RESET_N is not low. -/
theorem exec_of_form {c : Instr} {q : RequestForm} (h : c.form = some q) (s : State) :
    exec c s = .next (s.whenLive (handleRequest q)) := by
  cases c <;> cases h <;> rfl

/-- Every request kind has its command. -/
theorem form_of_mem {q : RequestForm} (h : q ∈ requestForms) : ∃ c : Instr, c.form = some q := by
  have hforms : requestForms.map some = [Instr.identify, .queryStatus, .setOdometry, .presetPosition, .setTracking,
      .setSide, .armSide, .disarmSide, .clearFault, .setChannel, .setProfile, .writeShot, .clearStaged, .readShot,
      .swapPlans, .setZone, .setOffset, .startRun, .stopRun, .reset].map Instr.form := rfl
  have hq : some q ∈ requestForms.map some := List.mem_map_of_mem h
  rw [hforms] at hq
  obtain ⟨c, -, hc⟩ := List.mem_map.1 hq
  exact ⟨c, hc⟩

/-! ## The effect of a request -/

/-- What the request of a command does to the state, once its frame is taken: nothing when it is refused or only answers, and
otherwise its kind's effect, with what its checks have established. -/
inductive Effect : Instr → State → State → Prop
  | unchanged {c : Instr} {s : State} : Effect c s s
  | queryStatus {s : State} :
    Effect .queryStatus s (s.setLi { s.li with latches := ⟨false, false, false, false, false⟩ })
  | setOdometry {s : State} {n k timeout : Nat} {sense : Sense} (idle : s.rc.run = .idle)
    (hn : 1 ≤ n ∧ n ≤ 255) (hk : k ≤ 3) (ht : 50 ≤ timeout ∧ timeout ≤ 5000) :
    Effect .setOdometry s (commitDu noLatch (s.du.setOdometry n k timeout sense s.now) s)
  | presetPosition {s : State} {p : List Byte} (idle : s.rc.run = .idle) :
    Effect .presetPosition s (commitDu noLatch (s.du.preset (s32 p 0)) s)
  | setTracking {s : State} {g : Tracking} (idle : s.rc.run = .idle) (law : g.law) :
    Effect .setTracking s (s.setIt { s.it with settings := g })
  | setSide {s : State} {x : Side} {level : HvLevel} {autoArm : Bool} {d : Dispositions} :
    Effect .setSide s (setSide x level autoArm d s)
  | armSide {s : State} {x : Side} (lowered : (s.sc.get x).state = .lowered) (on : (s.sc.get x).level ≠ .off) :
    Effect .armSide s (supplyFaultCheck x (enterArming x s))
  | disarmSide {s : State} {x : Side} : Effect .disarmSide s (disarmSide x s)
  | clearSideFault {s : State} {x : Side} : Effect .clearFault s (clearSideFault x s)
  | clearChannelFault {s : State} {x : Side} {ch : Channel} : Effect .clearFault s (clearChannelFault x ch s)
  | setChannel {s : State} {x : Side} {ch : Channel} {r : ChannelRecord} :
    Effect .setChannel s (setChannel x ch r s)
  | setProfile {s : State} {x : Side} {n : Fin 4} {v : Profile} : Effect .setProfile s (setProfile x n v s)
  | writeShot {s : State} {x : Side} {i : Nat} {sh : Shot} (index : i ≤ 15)
    (place : i ≤ (s.ps.staged.get x).shots.length) :
    Effect .writeShot s (writeShot x i (plannedShot (s.sc.get x) sh) s).2
  | clearStaged {s : State} {sides : List Side} : Effect .clearStaged s (clearStaged sides s)
  | swapNow {s : State} (idle : s.rc.run = .idle) : Effect .swapPlans s (swapPlans s)
  | swapLater {s : State} (busy : s.rc.run ≠ .idle) :
    Effect .swapPlans s (s.setPs { s.ps with swapPending := true })
  | setZone {s : State} {x : Side} {n : Fin 8} {z : Zone} : Effect .setZone s (s.setIt (s.it.setZone x n z))
  | setOffset {s : State} {z : Int} : Effect .setOffset s (s.setIt { s.it with offset := z })
  | startRun {s : State} (idle : s.rc.run = .idle) : Effect .startRun s (startRun s)
  | stopRun {s : State} : Effect .stopRun s (beginStop .request s)
  | reset {s : State} {scope : Scope} :
    Effect .reset s (s.setRc { s.rc with handler := .awaitingReset scope false })

theorem gateIdle_none {r : RunState} (h : gateIdle r = none) : r = .idle := by
  cases r with
  | idle => rfl
  | running | stopping => cases h

theorem gateStart_none {r : RunState} (h : gateStart r = none) : r = .idle := by
  cases r with
  | idle => rfl
  | running | stopping => cases h

/-- A body that makes a list of checks leaves the state as it is, or all checks pass and it has its effect. -/
theorem checked_effect {c : Instr} {cs : List (Nat × Bool)} {a : Answer × State} {s : State}
    (h : (∀ q ∈ cs, q.2 = false) → Effect c s a.2) : Effect c s (checked cs a s).2 := by
  cases hf : lowestFailing cs with
  | none => rw [checked_none hf]; exact h (lowestFailing_eq_none.1 hf)
  | some i => rw [checked_some hf]; exact .unchanged

theorem outside_false {lo hi v : Nat} : outside lo hi v = false ↔ lo ≤ v ∧ v ≤ hi := by
  rw [outside_eq, decide_eq_false_iff_not]
  omega

theorem setOdometryBody_effect (p : List Byte) {s : State} (idle : s.rc.run = .idle) :
    Effect .setOdometry s (setOdometryBody p s).2 := by
  refine checked_effect fun h => ?_
  simp only [List.forall_mem_cons, outside_false] at h
  obtain ⟨hn, hk, -, ht, -⟩ := h
  exact .setOdometry idle hn hk.2 ht

theorem setTrackingBody_effect (p : List Byte) {s : State} (idle : s.rc.run = .idle) :
    Effect .setTracking s (setTrackingBody p s).2 := by
  refine checked_effect fun h => ?_
  simp only [List.forall_mem_cons, outside_false] at h
  obtain ⟨⟨-, hbridge⟩, ⟨hmin, hmin'⟩, ⟨hlength, hlength'⟩, ⟨-, hwindow⟩, hcapA, hcapB, -⟩ := h
  refine .setTracking idle ⟨hbridge, hmin, hmin', hlength, hlength', hwindow, fun x => ?_⟩
  cases x
  · exact hcapA
  · exact hcapB

theorem armSideBody_effect (p : List Byte) (s : State) : Effect .armSide s (armSideBody p s).2 := by
  refine checked_effect fun _ => ?_
  generalize sideOfPayload p = x
  unfold armSide
  split
  case h_1 | h_2 | h_4 | h_5 => exact .unchanged
  case h_3 lowered =>
    split
    · exact .unchanged
    · exact .armSide lowered ‹_›

theorem clearFaultBody_effect (p : List Byte) (s : State) : Effect .clearFault s (clearFaultBody p s).2 := by
  refine checked_effect fun _ => ?_
  dsimp only
  split
  · exact .clearSideFault
  · exact .clearChannelFault

theorem setProfileBody_effect (p : List Byte) (s : State) : Effect .setProfile s (setProfileBody p s).2 := by
  refine checked_effect fun _ => ?_
  split
  · exact .unchanged
  · exact .setProfile

theorem writeShotBody_effect (p : List Byte) (s : State) : Effect .writeShot s (writeShotBody p s).2 := by
  unfold writeShotBody
  split
  · exact .unchanged
  · dsimp only
    split
    · exact .unchanged
    · rename_i hpass
      obtain ⟨-, hindex, hplace, -⟩ := shotFieldChecks_pass (writeShotFailing_eq_none.1 hpass).1
      exact .writeShot hindex hplace

theorem clearStagedBody_effect (p : List Byte) (s : State) : Effect .clearStaged s (clearStagedBody p s).2 := by
  unfold clearStagedBody
  split
  · exact .unchanged
  · split
    · exact .unchanged
    · exact .clearStaged

theorem swapPlansBody_effect (p : List Byte) (s : State) : Effect .swapPlans s (swapPlansBody p s).2 := by
  unfold swapPlansBody
  split
  · exact .swapNow ‹_›
  · split
    · exact .unchanged
    · exact .swapLater ‹_›

theorem startRunBody_effect (p : List Byte) {s : State} (idle : s.rc.run = .idle) :
    Effect .startRun s (startRunBody p s).2 := by
  unfold startRunBody
  split
  · exact .unchanged
  · exact .startRun idle

theorem resetBody_effect (p : List Byte) (s : State) : Effect .reset s (resetBody p s).2 := by
  unfold resetBody
  split
  · exact .unchanged
  · exact .reset

/-- The body of a request that passes its run-state gate has an effect of its command. -/
theorem body_effect {c : Instr} {q : RequestForm} (hq : c.form = some q) (p : List Byte) {s : State}
    (hg : q.gate s.rc.run = none) : Effect c s (q.body p s).2 := by
  cases c <;> cases hq
  case identify => exact .unchanged
  case queryStatus => exact .queryStatus
  case setOdometry => exact setOdometryBody_effect p (gateIdle_none hg)
  case presetPosition => exact .presetPosition (gateIdle_none hg)
  case setTracking => exact setTrackingBody_effect p (gateIdle_none hg)
  case setSide => exact checked_effect fun _ => .setSide
  case armSide => exact armSideBody_effect p s
  case disarmSide => exact checked_effect fun _ => .disarmSide
  case clearFault => exact clearFaultBody_effect p s
  case setChannel => exact checked_effect fun _ => .setChannel
  case setProfile => exact setProfileBody_effect p s
  case writeShot => exact writeShotBody_effect p s
  case clearStaged => exact clearStagedBody_effect p s
  case readShot => exact checked_effect fun _ => .unchanged
  case swapPlans => exact swapPlansBody_effect p s
  case setZone => exact checked_effect fun _ => .setZone
  case setOffset => exact .setOffset
  case startRun => exact startRunBody_effect p (gateStart_none hg)
  case stopRun => exact .stopRun
  case reset => exact resetBody_effect p s

/-! ## Taking a frame -/

/-- The oldest held frame is taken, the request of a command has its effect, and the reply is placed (R171 to R173). -/
inductive Taking (c : Instr) (s : State) : State → Prop
  | intro {f : Frame} {u : State} (a : Answer) (may : takeable s = some f) (effect : Effect c (dropFrame s) u) :
    Taking c s (placeReply f a u)

theorem handleRequest_cases {c : Instr} {q : RequestForm} (hq : c.form = some q) (s : State) :
    handleRequest q s = s ∨ Taking c s (handleRequest q s) := by
  unfold handleRequest
  split
  · exact .inl rfl
  · rename_i f hf
    split
    · refine .inr (.intro _ hf ?_)
      unfold answerRequest
      split
      · exact .unchanged
      · split
        · exact .unchanged
        · exact body_effect hq _ ‹_›
    · exact .inl rfl

theorem handleUnknown_cases (s : State) : handleUnknown s = s ∨ Taking .unknownRequestKind s (handleUnknown s) := by
  unfold handleUnknown
  split
  · exact .inl rfl
  · split
    · exact .inl rfl
    · exact .inr (.intro _ ‹_› .unchanged)

/-- R182: the frame that a RUN reset takes is taken as its own command takes it. -/
theorem takeOldest_cases (s : State) : takeOldest s = s ∨ ∃ c, Taking c s (takeOldest s) := by
  unfold takeOldest
  split
  · exact .inl rfl
  · split
    · rename_i q hq
      obtain ⟨c, hc⟩ := form_of_mem (List.mem_of_find?_eq_some hq)
      exact (handleRequest_cases hc s).imp_right fun h => ⟨c, h⟩
    · exact (handleUnknown_cases s).imp_right fun h => ⟨_, h⟩

/-! ## Events -/

/-- What a command that is no request does to a state of which RESET_N is not low, after its time has passed. -/
inductive Event : Instr → State → State → Prop
  | forwardCount {s : State} {after : Nat} {first : Side} :
    Event (.forwardCount after first) s (forwardCount first s)
  | reverseCount {s : State} {after : Nat} : Event (.reverseCount after) s (reverseCount s)
  | illegalTransition {s : State} {after : Nat} : Event (.illegalTransition after) s (illegalTransition s)
  | standstillTimerExpiry {s : State} : Event .standstillTimerExpiry s (standstillExpiry s)
  | carriageInputChange {s : State} {after : Nat} {x : Side} :
    Event (.carriageInputChange after x) s (carriageChange x s)
  | debounceExpiry {s : State} {x : Side} : Event (.debounceExpiry x) s (debounceExpiry x s)
  | hvrdyArrival {s : State} {after : Nat} {x : Side} : Event (.hvrdyArrival after x) s (hvrdyArrival x s)
  | hvrdyFall {s : State} {after : Nat} {x : Side} : Event (.hvrdyFall after x) s (hvrdyFall x s)
  | hvfltAsserted {s : State} {after : Nat} {x : Side} {level : Bool} :
    Event (.hvfltAsserted after x level) s (hvfltChange x level s)
  | rampTimerExpiry {s : State} {x : Side} : Event (.rampTimerExpiry x) s (rampExpiry x s)
  | planSwapAtBoundary {s : State} : Event .planSwapAtBoundary s (planSwapAtBoundary s)
  | channelRecordTakesEffect {s : State} {x : Side} {ch : Channel} :
    Event (.channelRecordTakesEffect x ch) s (if recordMoment s then recordTakesEffect x s ch else s)
  | shotCompletion {s : State} {x : Side} {load : LoadStatus} {trace : List Nat} :
    Event (.shotCompletion x load trace) s (completeShot x load trace s)
  | stepEvaluation {s : State} {x : Side} : Event (.stepEvaluation x) s (drainTest (stepEvaluation x s))
  | clusterRelease {s : State} :
    Event .clusterRelease s (drainEndTest (s.setTrack (s.track.releaseFront s.du.hwm)))
  | drainReleasePhase {s : State} : Event .drainReleasePhase s (drainTest s)
  | drainEnd {s : State} : Event .drainEnd s (drainEndTest s)
  | characterReceived {s : State} {after : Nat} {c : Character} :
    Event (.characterReceived after c) s (characterReceived c s)
  | idleTimerExpiry {s : State} : Event .idleTimerExpiry s (idleExpiry s)
  | holdInAssert {s : State} {after : Nat} : Event (.holdInAssert after) s (s.setLi { s.li with holdIn := true })
  | holdInRelease {s : State} {after : Nat} : Event (.holdInRelease after) s (holdInRelease s)
  | transmissionStart {s : State} : Event .transmissionStart s (transmissionStart s)
  | transmissionEnd {s : State} : Event .transmissionEnd s (transmissionEnd s)
  | resetRunActs {s : State} : Event .resetRunActs s (actAwaited .run resetRunActs s)
  | resetFullActs {s : State} : Event .resetFullActs s (actAwaited .full resetFullActs s)
  | pinResetAssert {s : State} {after : Nat} : Event (.pinResetAssert after) s (pinResetAssert s)

/-! ## The cases of a step -/

/-- What a command leaves of a state of which RESET_N is not low. -/
inductive LiveStep (c : Instr) (s : State) : State → Prop
  | idle : LiveStep c s s
  | taking {t : State} (h : Taking c s t) : LiveStep c s t
  | event {t : State} (h : Event c s t) : LiveStep c s t

/-- What a command answers while RESET_N is not low: its case after its time has passed. -/
theorem exec_live {s : State} (c : Instr) (hlive : live s) :
    ∃ t, exec c s = .next t ∧ LiveStep c (s.advance c.passes) t := by
  cases hq : c.form with
  | some q =>
    refine ⟨handleRequest q s, ?_, ?_⟩
    · rw [exec_of_form hq, State.whenLive_live _ _ hlive]
    · have hpass : s.advance c.passes = s := by cases c <;> cases hq <;> rfl
      rw [hpass]
      rcases handleRequest_cases hq s with h | h
      · rw [h]; exact .idle
      · exact .taking h
  | none =>
    have hnow : ∀ n f, (s.advance n).whenLive f = f (s.advance n) := fun n f => State.whenLive_advance s n f hlive
    have hat : ∀ f, s.whenLive f = f s := fun f => State.whenLive_live s f hlive
    cases c <;> try (cases hq; done)
    case unknownRequestKind =>
      refine ⟨_, congrArg Host.Outcome.next (hat _), ?_⟩
      rcases handleUnknown_cases s with h | h
      · rw [h]; exact .idle
      · exact .taking h
    case pinResetRelease after pins => exact ⟨_, congrArg Host.Outcome.next (if_neg (by rw [hlive]; decide)), .idle⟩
    case forwardCount => exact ⟨_, congrArg Host.Outcome.next (hnow _ _), .event .forwardCount⟩
    case reverseCount => exact ⟨_, congrArg Host.Outcome.next (hnow _ _), .event .reverseCount⟩
    case illegalTransition => exact ⟨_, congrArg Host.Outcome.next (hnow _ _), .event .illegalTransition⟩
    case standstillTimerExpiry => exact ⟨_, congrArg Host.Outcome.next (hat _), .event .standstillTimerExpiry⟩
    case carriageInputChange => exact ⟨_, congrArg Host.Outcome.next (hnow _ _), .event .carriageInputChange⟩
    case debounceExpiry => exact ⟨_, congrArg Host.Outcome.next (hat _), .event .debounceExpiry⟩
    case hvrdyArrival => exact ⟨_, congrArg Host.Outcome.next (hnow _ _), .event .hvrdyArrival⟩
    case hvrdyFall => exact ⟨_, congrArg Host.Outcome.next (hnow _ _), .event .hvrdyFall⟩
    case hvfltAsserted => exact ⟨_, congrArg Host.Outcome.next (hnow _ _), .event .hvfltAsserted⟩
    case rampTimerExpiry => exact ⟨_, congrArg Host.Outcome.next (hat _), .event .rampTimerExpiry⟩
    case planSwapAtBoundary => exact ⟨_, congrArg Host.Outcome.next (hat _), .event .planSwapAtBoundary⟩
    case channelRecordTakesEffect =>
      exact ⟨_, congrArg Host.Outcome.next (hat _), .event .channelRecordTakesEffect⟩
    case shotCompletion => exact ⟨_, congrArg Host.Outcome.next (hat _), .event .shotCompletion⟩
    case stepEvaluation => exact ⟨_, congrArg Host.Outcome.next (hat _), .event .stepEvaluation⟩
    case clusterRelease => exact ⟨_, congrArg Host.Outcome.next (hat _), .event .clusterRelease⟩
    case drainReleasePhase => exact ⟨_, congrArg Host.Outcome.next (hat _), .event .drainReleasePhase⟩
    case drainEnd => exact ⟨_, congrArg Host.Outcome.next (hat _), .event .drainEnd⟩
    case characterReceived => exact ⟨_, congrArg Host.Outcome.next (hnow _ _), .event .characterReceived⟩
    case idleTimerExpiry => exact ⟨_, congrArg Host.Outcome.next (hat _), .event .idleTimerExpiry⟩
    case holdInAssert => exact ⟨_, congrArg Host.Outcome.next (hnow _ _), .event .holdInAssert⟩
    case holdInRelease => exact ⟨_, congrArg Host.Outcome.next (hnow _ _), .event .holdInRelease⟩
    case transmissionStart => exact ⟨_, congrArg Host.Outcome.next (hat _), .event .transmissionStart⟩
    case transmissionEnd => exact ⟨_, congrArg Host.Outcome.next (hat _), .event .transmissionEnd⟩
    case resetRunActs => exact ⟨_, congrArg Host.Outcome.next (hat _), .event .resetRunActs⟩
    case resetFullActs => exact ⟨_, congrArg Host.Outcome.next (hat _), .event .resetFullActs⟩
    case pinResetAssert => exact ⟨_, congrArg Host.Outcome.next (hnow _ _), .event .pinResetAssert⟩

/-- R184, log 16: while RESET_N is low a command other than the release lets its time pass and does nothing else. -/
theorem exec_held {s : State} {c : Instr} (hheld : s.pinReset = true)
    (hc : ∀ after pins, c ≠ .pinResetRelease after pins) : exec c s = .next (s.advance c.passes) := by
  have hnow : ∀ n f, (s.advance n).whenLive f = s.advance n := fun n f =>
    State.whenLive_reset (s.advance n) f hheld
  have hat : ∀ f, s.whenLive f = s := fun f => State.whenLive_reset s f hheld
  cases c
  case pinResetRelease after pins => exact absurd rfl (hc after pins)
  case forwardCount | reverseCount | illegalTransition | carriageInputChange | hvrdyArrival | hvrdyFall | hvfltAsserted
      | characterReceived | holdInAssert | holdInRelease | pinResetAssert =>
    exact congrArg Host.Outcome.next (hnow _ _)
  all_goals exact congrArg Host.Outcome.next (hat _)

/-- The release of RESET_N (R184). -/
theorem exec_release {s : State} (hheld : s.pinReset = true) (after : Nat) (pins : Pins) :
    exec (.pinResetRelease after pins) s = .next (pinResetRelease pins (s.advance after)) :=
  congrArg Host.Outcome.next (if_pos hheld)

/-- The state in which a command acts: it has left the queue and its time has passed. -/
def State.started (s : State) (c : Instr) (rest : List Instr) : State :=
  ({ s with pending := rest } : State).advance c.passes

@[simp] theorem State.started_du (s : State) (c : Instr) (rest : List Instr) :
    (s.started c rest).du = s.du := rfl

@[simp] theorem State.started_sc (s : State) (c : Instr) (rest : List Instr) :
    (s.started c rest).sc = s.sc := rfl

@[simp] theorem State.started_ps (s : State) (c : Instr) (rest : List Instr) :
    (s.started c rest).ps = s.ps := rfl

@[simp] theorem State.started_se (s : State) (c : Instr) (rest : List Instr) :
    (s.started c rest).se = s.se := rfl

@[simp] theorem State.started_cs (s : State) (c : Instr) (rest : List Instr) :
    (s.started c rest).cs = s.cs := rfl

@[simp] theorem State.started_it (s : State) (c : Instr) (rest : List Instr) :
    (s.started c rest).it = s.it := rfl

@[simp] theorem State.started_gr (s : State) (c : Instr) (rest : List Instr) :
    (s.started c rest).gr = s.gr := rfl

@[simp] theorem State.started_li (s : State) (c : Instr) (rest : List Instr) :
    (s.started c rest).li = s.li := rfl

@[simp] theorem State.started_rc (s : State) (c : Instr) (rest : List Instr) :
    (s.started c rest).rc = s.rc := rfl

@[simp] theorem State.started_pinReset (s : State) (c : Instr) (rest : List Instr) :
    (s.started c rest).pinReset = s.pinReset := rfl

@[simp] theorem State.started_boundary (s : State) (c : Instr) (rest : List Instr) :
    (s.started c rest).boundary = s.boundary := rfl

@[simp] theorem State.started_free (s : State) (c : Instr) (rest : List Instr) :
    (s.started c rest).free = s.free := rfl

/-- What a step can do. -/
inductive StepCase (s : State) : State → Prop
  | empty : StepCase s s
  | held {c : Instr} {rest : List Instr} (front : s.pending = c :: rest) (low : s.pinReset = true) :
    StepCase s (s.started c rest)
  | release {after : Nat} {pins : Pins} {rest : List Instr} (front : s.pending = .pinResetRelease after pins :: rest)
    (low : s.pinReset = true) :
    StepCase s (pinResetRelease pins (s.started (.pinResetRelease after pins) rest))
  | live {c : Instr} {rest : List Instr} {t : State} (front : s.pending = c :: rest) (high : s.pinReset = false)
    (h : LiveStep c (s.started c rest) t) : StepCase s t

theorem step_cases {s t : State} (h : step s = .next t) : StepCase s t := by
  unfold step at h
  split at h
  · cases h; exact .empty
  · rename_i c rest hp
    cases hlow : s.pinReset with
    | false =>
      obtain ⟨u, hu, hstep⟩ := exec_live (s := { s with pending := rest }) c hlow
      rw [hu] at h
      cases h
      exact .live hp hlow hstep
    | true =>
      by_cases hc : ∀ after pins, c ≠ .pinResetRelease after pins
      · rw [exec_held (s := { s with pending := rest }) hlow hc] at h
        cases h
        exact .held hp hlow
      · simp only [ne_eq, Classical.not_forall, Classical.not_not] at hc
        obtain ⟨after, pins, rfl⟩ := hc
        rw [exec_release (s := { s with pending := rest }) hlow] at h
        cases h
        exact .release hp hlow

/-- A law of the state that time and the queue do not touch, that holds after a pin reset, and that requests and events
keep, is kept by every step. -/
theorem step_keeps {P : State → Prop} (hstart : ∀ s c rest, P s → P (State.started s c rest))
    (hrelease : ∀ pins s, P (pinResetRelease pins s))
    (htaking : ∀ c s t, live s → P s → Taking c s t → P t) (hevent : ∀ c s t, live s → P s → Event c s t → P t)
    {s t : State} (hs : P s) (h : step s = .next t) : P t := by
  cases step_cases h with
  | empty => exact hs
  | held => exact hstart _ _ _ hs
  | release => exact hrelease _ _
  | live front high h =>
    cases h with
    | idle => exact hstart _ _ _ hs
    | taking h => exact htaking _ (s.started _ _) _ high (hstart _ _ _ hs) h
    | event h => exact hevent _ (s.started _ _) _ high (hstart _ _ _ hs) h

end Sys2Proof.Machine

/-!
Laws that the inner operations keep, packaged once: `InnerKept P` asks that the primitive changes which inner operations
are made of keep `P`; then the stop, the drain, the events, the work on a list and the boundary keep it.
-/
namespace Sys2Proof.Machine

/-- The primitive changes that stops, drains and events are made of keep `P`. -/
structure DrainKept (P : State → Prop) : Prop where
  runstate : ∀ {s : State} (c : RunCauses) (w : Option (Int × SwapPlace)), P s → P (placeRunstate c w s)
  swap : ∀ {s : State}, P s → P (swapPlans s)
  record : ∀ {s : State} (x : Side) (ch : Channel), P s → P (recordTakesEffect x s ch)
  gaps : ∀ {s : State} (x : Side), P s → P (drainGaps x s)
  free : ∀ {s : State} (n : Nat), P s → P { s with free := n }
  run : ∀ {s : State} (r : RunState) (c : StopCause) (d : DrainPhase), (r = .running → s.rc.run = .running) →
    P s → P (s.setRc ⟨r, c, d, s.rc.handler⟩)
  release : ∀ {s : State}, P s → P (releaseClusters s)
  closing : ∀ {s : State} (mark : IndicationFlags → IndicationFlags),
    P s → P (s.setTrack (s.track.closeAll s.du.hwm mark))
  sealing : ∀ {s : State}, P s → P (s.setIt s.it.sealForced)
  side : ∀ {s : State} (x : Side) (e : BitVec 6) (m : Bool), P s → P (s.setLi (s.li.placeSide x e m))
  coupling : ∀ {s : State} (x : Side) (ch : Channel) (m : Bool), P s → P (s.setLi (s.li.placeCoupling x ch m))

namespace DrainKept
variable {P : State → Prop} (h : DrainKept P)
include h

/-! ## The drain -/

omit h in
theorem foldl {α : Type} {g : State → α → State} (hg : ∀ s a, P s → P (g s a)) :
    ∀ (l : List α) {s : State}, P s → P (l.foldl g s)
  | [], _, hs => hs
  | a :: l, s, hs => foldl hg l (hg s a hs)

theorem records {s : State} (hs : P s) : P (recordsTakeEffect s) :=
  foldl (fun _ ch => h.record .b ch) _ (foldl (fun _ ch => h.record .a ch) _ hs)

theorem bothGaps {s : State} (hs : P s) : P (drainBothGaps s) := by
  unfold drainBothGaps
  split
  · split
    · exact h.free _ (h.gaps .b (h.gaps .a hs))
    · exact h.free _ (h.gaps .a (h.gaps .b hs))
  · exact h.gaps .b (h.gaps .a hs)

theorem drainEnd {s : State} (hs : P s) : P (drainEnd s) := by
  obtain ⟨g, l, n, hgaps, -⟩ := drainBothGaps_frame s
  have hidle : P { drainBothGaps s with rc := { s.rc with run := .idle, drain := .none } } := by
    have hrun := h.run .idle s.rc.cause .none nofun (h.bothGaps hs)
    rw [hgaps] at hrun ⊢
    exact hrun
  rw [drainEnd_eq]
  refine h.runstate _ _ (h.records ?_)
  split
  · exact h.swap hidle
  · exact hidle

theorem drainEndTest {s : State} (hs : P s) : P (drainEndTest s) := by
  unfold Machine.drainEndTest
  split
  · exact h.drainEnd hs
  · exact hs

theorem releasePhase {s : State} (hs : P s) : P (releasePhase s) :=
  h.drainEndTest (h.release (h.sealing (h.closing _ (h.run s.rc.run s.rc.cause .release id hs))))

theorem drainTest {s : State} (hs : P s) : P (drainTest s) := by
  unfold Machine.drainTest
  split
  · exact h.releasePhase hs
  · exact hs

theorem beginStop {s : State} (c : StopCause) (hs : P s) : P (beginStop c s) := by
  unfold Machine.beginStop
  split
  · exact h.drainTest (h.runstate _ _ (h.run _ _ _ nofun hs))
  · exact hs

/-! ## Events -/

theorem dispose {s : State} (d : Disposition) {place : Bool → Li → Li} (hs : P s)
    (hp : ∀ m, P (s.setLi (place m s.li))) : P (dispose d place s) := by
  cases d with
  | ignore => exact hs
  | report => exact hp false
  | alert => exact hp true
  | halt => exact h.beginStop _ (hp true)

theorem raiseSide {s : State} (x : Side) (e : SideEvent) (hs : P s) : P (raiseSide x e s) :=
  h.dispose _ hs (fun m => h.side x e.bit m hs)

theorem raiseCoupling {s : State} (x : Side) (e : SideEvent) (ch : Channel) (hs : P s) : P (raiseCoupling x e ch s) :=
  h.dispose _ hs (fun m => h.coupling x ch m hs)

theorem couplingResult {s : State} (x : Side) (ch : Channel) (good : Bool)
    (hr : ∀ r : ChannelCoupling, P (s.setCs x { s.cs.get x with ratings := (s.cs.get x).ratings.set ch r })) :
    P (couplingResult x ch good s) := by
  unfold Machine.couplingResult
  dsimp only
  split
  · exact hr _
  · exact h.raiseCoupling x _ ch (hr _)

/-! ## The swap at a boundary -/

theorem planSwapAtBoundary {s : State} (hs : P s) : P (planSwapAtBoundary s) := by
  unfold Machine.planSwapAtBoundary
  split
  · exact hs
  · split
    · exact h.runstate _ _ (h.closing _ (h.swap hs))
    · exact hs

end DrainKept

/-- So do the evaluation of a step and a change of an engine. -/
structure InnerKept (P : State → Prop) : Prop extends DrainKept P where
  step : ∀ {s : State} (x : Side), P s → P (stepEvaluation x s)
  engine : ∀ {s : State} (x : Side) (v : Se), P s → P (s.setSe x v)

namespace InnerKept
variable {P : State → Prop} (h : InnerKept P)
include h

/-! ## The engine -/

theorem evaluateTimes (x : Side) : ∀ (n : Nat) {s : State}, P s → P (evaluateTimes x n s)
  | 0, _, hs => hs
  | n + 1, _, hs => evaluateTimes x n (h.step x hs)

theorem evaluateFinished {s : State} (x : Side) (hs : P s) : P (evaluateFinished x s) :=
  h.drainTest (h.evaluateTimes x _ hs)

theorem endOfList {s : State} (x : Side) (hs : P s) : P (endOfList x s) := by
  unfold Machine.endOfList
  split
  · exact hs
  · exact h.evaluateFinished x (h.engine x _ hs)

theorem reachShots (x : Side) : ∀ (due : List Nat) {s : State}, P s → P (reachShots x due s)
  | [], _, hs => h.endOfList x hs
  | i :: due, s, hs => by
    have hnext : ∀ g, P (Machine.reachShots x due (s.modifyFiring x g)) := fun g =>
      reachShots x due (h.engine x _ hs)
    unfold Machine.reachShots
    split
    · exact hnext _
    · split
      · exact hnext _
      · split
        · exact h.engine x _ hs
        · exact hnext _

theorem engineBoundary {s : State} (x : Side) (z : Int) (hs : P s) : P (engineBoundary x z s) := by
  unfold Machine.engineBoundary
  dsimp only
  split
  · exact h.engine x _ hs
  · split
    · exact h.evaluateFinished x (h.engine x _ hs)
    · exact h.reachShots x _ (h.engine x _ hs)

theorem abortList {s : State} (x : Side) (hs : P s) : P (abortList x s) := by
  unfold Machine.abortList
  split
  · exact hs
  · exact h.endOfList x (h.engine x _ hs)

theorem notifyDeparture {s : State} (x : Side) (was : SideState) (hs : P s) : P (notifyDeparture x was s) := by
  unfold Machine.notifyDeparture
  split
  · exact h.abortList x hs
  · exact hs

/-! ## The boundary -/

theorem fireBoundary (hb : ∀ (s : State) (b : Option Int), P s → P (s.setBoundary b))
    (ht : ∀ (s : State) (z : Int), P s → P (trackerBoundary z s)) {s : State} (first : Side) (z : Int) (hs : P s) :
    P (fireBoundary first z s) :=
  hb _ _ (h.engineBoundary _ z (h.engineBoundary first z
    (ht _ z (h.records (h.planSwapAtBoundary (hb s (some z) hs))))))

end InnerKept

/-- A law that inner operations keep by their frame is kept by the work of a fire boundary. -/
theorem fireBoundary_keeps {P : State → Prop} (hi : ∀ s t : State, Internal s t → P s → P t)
    (hb : ∀ (s : State) (b : Option Int), P s → P (s.setBoundary b))
    (ht : ∀ (s : State) (z : Int), P s → P (s.setIt ((s.it.appendVerdicts z).sealDue s.du.hwm)))
    {s : State} (first : Side) (z : Int) (hs : P s) : P (fireBoundary first z s) :=
  hb _ _ (hi _ _ (engineBoundary_internal _ z _) (hi _ _ (engineBoundary_internal first z _)
    (hi _ _ (releaseClusters_internal _) (ht _ z (hi _ _ (recordsTakeEffect_internal _)
      (hi _ _ (planSwapAtBoundary_internal _) (hb s (some z) hs)))))))

/-! ## The moves of a side -/

/-- What a law must survive to survive every move of a side: a change of its Side Controller that is none of the
profiles, its events, the abort of its list, and time. -/
structure SideKept (P : State → Prop) : Prop where
  modify : ∀ {s : State} (x : Side) (g : Sc → Sc), (∀ c, (g c).profiles = c.profiles) → P s → P (s.modifySc x g)
  raise : ∀ {s : State} (x : Side) (e : SideEvent), P s → P (raiseSide x e s)
  abort : ∀ {s : State} (x : Side), P s → P (abortList x s)
  waits : ∀ {s : State} (n : Nat), P s → P (s.advanceTo n)

namespace SideKept
variable {P : State → Prop} (h : SideKept P) {s : State} (x : Side)
include h

theorem notifyDeparture (was : SideState) (hs : P s) : P (notifyDeparture x was s) := by
  unfold Machine.notifyDeparture
  split
  · exact h.abort x hs
  · exact hs

theorem supplyFault (hs : P s) : P (supplyFault x s) := h.raise x _ (h.modify x _ (fun _ => rfl) hs)

theorem supplyFaultCheck (hs : P s) : P (supplyFaultCheck x s) := by
  unfold Machine.supplyFaultCheck
  split
  · exact h.supplyFault x hs
  · exact hs

theorem enterArming (hs : P s) : P (enterArming x s) := h.modify x _ (fun _ => rfl) hs

theorem autoArmCheck (hs : P s) : P (autoArmCheck x s) := by
  unfold Machine.autoArmCheck
  split
  · exact h.enterArming x hs
  · exact hs

theorem lowerSupply (hs : P s) : P (lowerSupply x s) := h.notifyDeparture x _ (h.modify x _ (fun _ => rfl) hs)

theorem setSide (level : HvLevel) (autoArm : Bool) (d : Dispositions) (hs : P s) :
    P (setSide x level autoArm d s) := by
  have hset := h.modify x (fun sc => { sc with level := level, autoArm := autoArm, dispositions := d })
    (fun _ => rfl) hs
  have hramp := h.notifyDeparture x ((s.modifySc x (fun sc =>
    { sc with level := level, autoArm := autoArm, dispositions := d })).sc.get x).state
    (h.supplyFaultCheck x (h.enterArming x hset))
  unfold Machine.setSide
  dsimp only
  split
  · exact hset
  · unfold moveForLevel
    split
    case h_1 | h_2 | h_3 => exact hset
    case h_4 | h_5 =>
      split
      · exact h.lowerSupply x hset
      · exact hramp

theorem disarmSide (hs : P s) : P (disarmSide x s) := by
  unfold Machine.disarmSide
  split
  case h_1 | h_2 | h_3 => exact hs
  case h_4 | h_5 => exact h.lowerSupply x hs

theorem clearSideFault (hs : P s) : P (clearSideFault x s) := by
  unfold Machine.clearSideFault
  split
  · split
    · exact h.supplyFaultCheck x (h.autoArmCheck x (h.modify x _ (fun _ => rfl) hs))
    · exact h.modify x _ (fun _ => rfl) hs
  · exact hs

theorem carriageLowered (hs : P s) : P (carriageLowered x s) := by
  unfold Machine.carriageLowered
  dsimp only
  split
  · exact h.supplyFaultCheck x (h.raise x _ (h.autoArmCheck x (h.modify x _ (fun _ => rfl) (h.modify x _ (fun _ => rfl) hs))))
  · exact h.raise x _ (h.modify x _ (fun _ => rfl) hs)

theorem carriageRaised (hs : P s) : P (carriageRaised x s) := by
  refine h.notifyDeparture x _ (h.raise x _ ?_)
  split
  · exact h.modify x _ (fun _ => rfl) hs
  · exact h.modify x _ (fun _ => rfl) (h.modify x _ (fun _ => rfl) hs)

theorem debounceExpiry (hs : P s) : P (debounceExpiry x s) := by
  unfold Machine.debounceExpiry
  split
  · exact hs
  · rename_i d hd
    have hdropped := h.modify x (fun sc => { sc with candidate := none }) (fun _ => rfl) (h.waits d.deadline hs)
    unfold setCarriageFlag
    split
    · exact h.carriageLowered x hdropped
    · exact h.carriageRaised x hdropped

theorem hvrdyArrival (hs : P s) : P (hvrdyArrival x s) := by
  unfold Machine.hvrdyArrival
  dsimp only
  split
  · exact hs
  · split
    · exact h.raise x _ (h.modify x _ (fun _ => rfl) (h.modify x _ (fun _ => rfl) hs))
    · exact h.modify x _ (fun _ => rfl) hs

theorem hvfltChange (level : Bool) (hs : P s) : P (hvfltChange x level s) := by
  unfold Machine.hvfltChange
  dsimp only
  split
  · exact h.notifyDeparture x _ (h.supplyFault x (h.modify x _ (fun _ => rfl) hs))
  · exact h.modify x _ (fun _ => rfl) hs

theorem rampExpiry (hs : P s) : P (rampExpiry x s) := by
  unfold Machine.rampExpiry
  split
  · exact hs
  · split
    · exact h.raise x _ (h.modify x _ (fun _ => rfl) (h.waits _ hs))
    · exact hs

theorem loadFault (ch : Channel) (l : FaultLatch) (hs : P s) : P (loadFault x ch l s) := by
  unfold Machine.loadFault
  split
  · exact h.raise x _ (h.modify x _ (fun _ => rfl) hs)
  · exact hs

end SideKept

/-- A law that inner operations keep by their frame, and that a change of a Side Controller keeps, is kept by the moves of
a side. -/
theorem SideKept.ofInternal {P : State → Prop} (hi : ∀ s t : State, Internal s t → P s → P t)
    (hm : ∀ (s : State) (x : Side) (g : Sc → Sc), P s → P (s.modifySc x g))
    (hn : ∀ (s : State) (n : Nat), P s → P (s.advanceTo n)) : SideKept P where
  modify x g _ hs := hm _ x g hs
  raise x e hs := hi _ _ (raiseSide_internal x e _) hs
  abort x hs := hi _ _ (abortList_internal x _) hs
  waits n hs := hn _ n hs

/-! ## The completion of a shot -/

/-- A law that time, a fault latch, a COUPLING result and the work on a list keep is kept by a completion. -/
theorem completeShot_keeps {P : State → Prop} (hnow : ∀ (s : State) (n : Nat), P s → P (s.advanceTo n))
    (hfault : ∀ (s : State) (x : Side) (ch : Channel) (l : FaultLatch), P s → P (loadFault x ch l s))
    (hcoupling : ∀ (s : State) (x : Side) (ch : Channel) (good : Bool), P s → P (couplingResult x ch good s))
    (hreach : ∀ (s : State) (x : Side) (due : List Nat) (g : Firing → Firing),
      P s → P (reachShots x due (s.modifyFiring x g)))
    {s : State} (x : Side) (load : LoadStatus) (trace : List Nat) (hs : P s) : P (completeShot x load trace s) := by
  have houtcome : ∀ (fl : InFlight) (p : PlannedShot) (u : State), P u → P (shotOutcome x load trace fl p u).2 := by
    intro fl p u hu
    cases load with
    | openLoad => exact hfault u x _ _ hu
    | shorted => exact hfault u x _ _ hu
    | good =>
      simp only [shotOutcome]
      cases couplingGood (evaluateGates (deliveredTrace trace fl.params.listeningEnd) p.shot.gates) with
      | none => dsimp only; split <;> exact hu
      | some g => dsimp only; split <;> exact hcoupling u x _ g hu
  unfold completeShot
  split
  · exact hs
  · split
    · exact hs
    · dsimp only
      split
      · exact hnow s _ hs
      · exact hreach _ x _ _ (houtcome _ _ _ (hnow s _ hs))

/-! ## The beginning of a frame -/

/-- What the beginning of a frame leaves of the link: the receiver and the held frames as they are, and no place but the
one emptied changed. -/
structure Sent (l m : Li) : Prop where
  receiver : m.receiver = l.receiver
  held : m.held = l.held
  gap : ∀ x : Side, m.gap.get x = l.gap.get x ∨ m.gap.get x = none
  flaw : m.flawQueue = l.flawQueue ∨ ∃ p, l.flawQueue = p :: m.flawQueue

/-- What TRANSMISSION_START can do (R166, R167). -/
inductive Sending (s : State) : State → Prop
  | nothing : Sending s s
  | frame {l : Li} (sent : Sent s.li l) : Sending s (s.setLi l)
  | motion {l : Li} (sent : Sent s.li l) :
    Sending s ((s.setLi l).setDu { s.du with encoderError := false, rangeEnd := false })
  | flaw {l : Li} (sent : Sent s.li l) : Sending s (drainEndTest (releaseClusters (s.setLi l)))

theorem beginFrame_cases (s : State) (owner : FrameOwner) : Sending s (beginFrame s owner) := by
  have kept : ∀ x : Side, s.li.gap.get x = s.li.gap.get x ∨ s.li.gap.get x = none := fun _ => .inl rfl
  cases owner with
  | reply resetAck =>
    unfold beginFrame
    dsimp only
    split
    · exact .nothing
    · exact .frame ⟨rfl, rfl, kept, .inl rfl⟩
  | motion =>
    unfold beginFrame
    dsimp only
    split
    · exact .nothing
    · exact .motion ⟨rfl, rfl, kept, .inl rfl⟩
  | runstate =>
    unfold beginFrame
    dsimp only
    split
    · exact .nothing
    · exact .frame ⟨rfl, rfl, kept, .inl rfl⟩
  | side x | coupling x =>
    unfold beginFrame
    dsimp only
    split
    · exact .nothing
    · exact .frame ⟨rfl, rfl, kept, .inl rfl⟩
  | gap x =>
    unfold beginFrame
    dsimp only
    split
    · exact .nothing
    · refine .frame ⟨rfl, rfl, fun y => ?_, .inl rfl⟩
      show (s.li.gap.set x none).get y = _ ∨ (s.li.gap.set x none).get y = none
      rw [PerSide.get_set]
      split
      · exact .inr rfl
      · exact .inl rfl
  | flaw =>
    unfold beginFrame
    dsimp only
    split
    · exact .nothing
    · rename_i p rest hp
      exact .flaw ⟨rfl, rfl, kept, .inr ⟨p, hp⟩⟩

theorem transmissionStart_cases (s : State) : Sending s (transmissionStart s) := by
  unfold transmissionStart
  split
  · split
    · exact .nothing
    · exact beginFrame_cases s _
  · exact .nothing

/-! ## The acts of a RUN reset -/

/-- R182: the blocks that a RUN reset empties, before the pending channel records take effect. -/
def runCleared (s : State) : State :=
  { s with
    se := ⟨Se.reset, Se.reset⟩
    it := s.it.resetRun
    gr := ⟨Gr.reset, Gr.reset⟩
    li := s.li.emptyPlaces
    ps := { s.ps with swapPending := false }
    rc := ⟨.idle, .resetRun, .none, s.rc.handler⟩ }

/-- R182: the state that a RUN reset leaves before it takes the oldest held frame. -/
def runReset (s : State) : State :=
  let u := placeRunstate causeReset none (recordsTakeEffect (runCleared s))
  u.setRc { u.rc with handler := .ready }

/-- A law that inner operations keep by their frame, and that Run Control's own state does not touch, holds after a RUN
reset if it holds of the emptied blocks. -/
theorem runReset_keeps {P : State → Prop} (hi : ∀ s t : State, Internal s t → P s → P t)
    (hr : ∀ (s : State) (r : Rc), P s → P (s.setRc r)) {s : State} (hs : P (runCleared s)) : P (runReset s) :=
  hr _ _ (hi _ _ (placeRunstate_internal _ _ _) (hi _ _ (recordsTakeEffect_internal _) hs))

theorem runCleared_eq (s : State) : runCleared s =
    ((((((((s.setSe .a Se.reset).setSe .b Se.reset).setIt s.it.resetRun).setGr .a Gr.reset).setGr .b Gr.reset).setLi
      s.li.emptyPlaces).setPs { s.ps with swapPending := false }).setRc ⟨.idle, .resetRun, .none, s.rc.handler⟩) := rfl

theorem resetRunActs_eq (s : State) : resetRunActs s = takeOldest (runReset s) := by
  unfold resetRunActs runReset
  rw [runCleared_eq]
  simp only [State.setSe_it, State.setGr_li, State.setIt_li, State.setSe_li, State.setGr_ps,
    State.setIt_ps, State.setSe_ps, State.setPs_rc, State.setLi_rc, State.setGr_rc, State.setIt_rc, State.setSe_rc]

end Sys2Proof.Machine

/-!
The law of the supplies and carriages (R21, R22): what each move of the side state makes of it, and that every step keeps
it.
-/
namespace Sys2Proof.Machine

/-! ## One Side Controller -/

theorem Sc.law_supplyOff_fault (c : Sc) : (c.supplyOff .fault).law := by simp [Sc.law, Sc.supplyOff]

theorem Sc.law_supplyOff_lowered {c : Sc} (h : c.lowered = true) : (c.supplyOff .lowered).law := by
  simp [Sc.law, Sc.supplyOff, h]

theorem Sc.law_supplyOff_parked {c : Sc} (h : c.lowered = false) : (c.supplyOff .parked).law := by
  simp [Sc.law, Sc.supplyOff, h]

theorem Sc.law_arming {c : Sc} (hl : c.lowered = true) (hv : c.level ≠ .off) (t : Nat) :
    ({ c with state := .arming, supply := c.level, ramp := some t } : Sc).law := by
  simp [Sc.law, hl, hv]

theorem Sc.law_reset (carriage hvrdy hvflt : Bool) : (Sc.reset carriage hvrdy hvflt).law := by
  cases carriage <;> simp [Sc.law, Sc.reset]

/-- The supply is driven only with the carriage lowered. -/
theorem Sc.law.lowered_of_driven {c : Sc} (h : c.law) (hst : c.state = .arming ∨ c.state = .armed) :
    c.lowered = true := by
  obtain ⟨-, -, hraised, -, -⟩ := h
  cases hl : c.lowered with
  | true => rfl
  | false => rcases hst with e | e <;> rcases hraised hl with e' | e' <;> rw [e] at e' <;> cases e'

/-- HVRDY in ARMING (R23). -/
theorem Sc.law.armed {c : Sc} (h : c.law) (hst : c.state = .arming) (b : Bool) :
    ({ c with hvrdy := b, state := .armed, ramp := none } : Sc).law := by
  obtain ⟨hsupply, hlevel, -, -, -⟩ := id h
  have hlowered := h.lowered_of_driven (.inl hst)
  rw [if_pos (.inl hst)] at hsupply
  simp [Sc.law, hsupply, hlowered, hlevel (.inl hst)]

/-- A carriage that is lowered outside PARKED. -/
theorem Sc.law.lower {c : Sc} (h : c.law) (hst : c.state ≠ .parked) : ({ c with lowered := true } : Sc).law := by
  obtain ⟨hsupply, hlevel, -, -, hramp⟩ := h
  exact ⟨hsupply, hlevel, nofun, fun _ => hst, hramp⟩

/-- A carriage that is raised in FAULT. -/
theorem Sc.law.raise {c : Sc} (h : c.law) (hst : c.state = .fault) : ({ c with lowered := false } : Sc).law := by
  obtain ⟨hsupply, hlevel, -, -, hramp⟩ := h
  exact ⟨hsupply, hlevel, fun _ => .inr hst, nofun, hramp⟩

/-- The level is free while the supply is off. -/
theorem Sc.law.withLevel {c : Sc} (h : c.law) (hst : ¬(c.state = .arming ∨ c.state = .armed)) (level : HvLevel)
    (autoArm : Bool) (d : Dispositions) :
    ({ c with level := level, autoArm := autoArm, dispositions := d } : Sc).law := by
  obtain ⟨hsupply, -, hraised, hlowered, hramp⟩ := h
  rw [if_neg hst] at hsupply
  exact ⟨by rw [if_neg hst]; exact hsupply, fun hd => absurd hd hst, hraised, hlowered, hramp⟩

/-- The side state of a FAULT that is cleared (R30): the supply is off already. -/
theorem Sc.law.clear {c : Sc} (h : c.law) (hst : c.state = .fault) (st : SideState)
    (hst' : (c.lowered = true ∧ st = .lowered) ∨ (c.lowered = false ∧ st = .parked)) :
    ({ c with state := st } : Sc).law := by
  obtain ⟨hsupply, -, -, -, hramp⟩ := h
  have hoff : c.supply = .off := by rw [hsupply, if_neg (by simp [hst])]
  have hstopped : c.ramp.isSome = false := by
    cases hr : c.ramp.isSome with
    | false => rfl
    | true => rw [hst] at hramp; cases hramp.1 hr
  rcases hst' with ⟨hl, rfl⟩ | ⟨hl, rfl⟩ <;> simp [Sc.law, hoff, hl, hstopped]

/-! ## The law in the whole state -/

theorem sideLaw_of_sc {s t : State} (hs : sideLaw s) (h : t.sc = s.sc) : sideLaw t := fun x => h ▸ hs x

theorem sideLaw_of_internal {s t : State} (h : Internal s t) (hs : sideLaw s) : sideLaw t := by
  intro x
  obtain ⟨ch, pr, hx⟩ := h.sc x
  rw [hx]
  exact hs x

theorem sideLaw_modifySc {s : State} {x : Side} {g : Sc → Sc} (hs : sideLaw s) (hg : (g (s.sc.get x)).law) :
    sideLaw (s.modifySc x g) := by
  intro y
  rw [State.modifySc_sc, PerSide.get_set]
  split
  · exact hg
  · exact hs y

@[simp] theorem commitDu_sc (latch : MotionCauses) (d : Du) (s : State) : (commitDu latch d s).sc = s.sc := by
  obtain ⟨l, heq, -⟩ := commitDu_frame latch d s
  rw [heq]

/-! ## The moves of the side state -/

theorem supplyFault_sideLaw {s : State} (x : Side) (hs : sideLaw s) : sideLaw (supplyFault x s) :=
  sideLaw_of_internal (raiseSide_internal x _ _) (sideLaw_modifySc hs (Sc.law_supplyOff_fault _))

theorem supplyFaultCheck_sideLaw {s : State} (x : Side) (hs : sideLaw s) : sideLaw (supplyFaultCheck x s) := by
  unfold supplyFaultCheck
  split
  · exact supplyFault_sideLaw x hs
  · exact hs

theorem enterArming_sideLaw {s : State} {x : Side} (hs : sideLaw s) (hl : (s.sc.get x).lowered = true)
    (hv : (s.sc.get x).level ≠ .off) : sideLaw (enterArming x s) :=
  sideLaw_modifySc hs (Sc.law_arming hl hv _)

theorem autoArmCheck_sideLaw {s : State} {x : Side} (hs : sideLaw s) (hl : (s.sc.get x).lowered = true) :
    sideLaw (autoArmCheck x s) := by
  unfold autoArmCheck
  split
  · rename_i hauto
    exact enterArming_sideLaw hs hl hauto.2
  · exact hs

theorem carriageLowered_sideLaw {s : State} (x : Side) (hs : sideLaw s) : sideLaw (carriageLowered x s) := by
  unfold carriageLowered
  dsimp only
  split
  · refine supplyFaultCheck_sideLaw x (sideLaw_of_internal (raiseSide_internal x _ _) (autoArmCheck_sideLaw ?_ ?_))
    · rw [State.modifySc_modifySc]
      exact sideLaw_modifySc hs (Sc.law_supplyOff_lowered rfl)
    · simp [Sc.supplyOff]
  · exact sideLaw_of_internal (raiseSide_internal x _ _) (sideLaw_modifySc hs ((hs x).lower ‹_›))

theorem carriageRaised_sideLaw {s : State} (x : Side) (hs : sideLaw s) : sideLaw (carriageRaised x s) := by
  refine sideLaw_of_internal (notifyDeparture_internal x _ _) (sideLaw_of_internal (raiseSide_internal x _ _) ?_)
  split
  · exact sideLaw_modifySc hs ((hs x).raise ‹_›)
  · rw [State.modifySc_modifySc]
    exact sideLaw_modifySc hs (Sc.law_supplyOff_parked rfl)

theorem debounceExpiry_sideLaw {s : State} (x : Side) (hs : sideLaw s) : sideLaw (debounceExpiry x s) := by
  unfold debounceExpiry
  split
  · exact hs
  · rename_i d hd
    have hdropped : sideLaw ((s.advanceTo d.deadline).modifySc x (fun sc => { sc with candidate := none })) :=
      sideLaw_modifySc (sideLaw_of_sc hs (State.advanceTo_sc s d.deadline)) (hs x)
    unfold setCarriageFlag
    split
    · exact carriageLowered_sideLaw x hdropped
    · exact carriageRaised_sideLaw x hdropped

theorem hvrdyArrival_sideLaw {s : State} (x : Side) (hs : sideLaw s) : sideLaw (hvrdyArrival x s) := by
  unfold hvrdyArrival
  dsimp only
  split
  · exact hs
  · split
    · refine sideLaw_of_internal (raiseSide_internal x _ _) ?_
      rw [State.modifySc_modifySc]
      exact sideLaw_modifySc hs ((hs x).armed ‹_› true)
    · exact sideLaw_modifySc hs (hs x)

theorem hvfltChange_sideLaw {s : State} (x : Side) (level : Bool) (hs : sideLaw s) :
    sideLaw (hvfltChange x level s) := by
  have hset : sideLaw (s.modifySc x (fun sc => { sc with hvflt := level })) := sideLaw_modifySc hs (hs x)
  unfold hvfltChange
  dsimp only
  split
  · exact sideLaw_of_internal (notifyDeparture_internal x _ _) (supplyFault_sideLaw x hset)
  · exact hset

theorem rampExpiry_sideLaw {s : State} (x : Side) (hs : sideLaw s) : sideLaw (rampExpiry x s) := by
  unfold rampExpiry
  split
  · exact hs
  · split
    · exact sideLaw_of_internal (raiseSide_internal x _ _)
        (sideLaw_modifySc (sideLaw_of_sc hs (State.advanceTo_sc s _)) (Sc.law_supplyOff_fault _))
    · exact hs

theorem lowerSupply_sideLaw {s : State} {x : Side} (h : sideLaw (s.modifySc x (Sc.supplyOff .lowered))) :
    sideLaw (lowerSupply x s) := sideLaw_of_internal (notifyDeparture_internal x _ _) h

theorem disarmSide_sideLaw {s : State} (x : Side) (hs : sideLaw s) : sideLaw (disarmSide x s) := by
  have hlower : (s.sc.get x).state = .arming ∨ (s.sc.get x).state = .armed → sideLaw (lowerSupply x s) := fun hst =>
    lowerSupply_sideLaw (sideLaw_modifySc hs (Sc.law_supplyOff_lowered ((hs x).lowered_of_driven hst)))
  unfold disarmSide
  split
  case h_1 | h_2 | h_3 => exact hs
  case h_4 hst => exact hlower (.inl hst)
  case h_5 hst => exact hlower (.inr hst)

/-- R29: with the supply driven, a new level leads to LOWERED, or to ARMING at that level. -/
theorem setSide_sideLaw {s : State} (x : Side) (level : HvLevel) (autoArm : Bool) (d : Dispositions)
    (hs : sideLaw s) : sideLaw (setSide x level autoArm d s) := by
  let settings : Sc → Sc := fun sc => { sc with level := level, autoArm := autoArm, dispositions := d }
  have hstate : (((s.modifySc x settings).sc.get x).state) = (s.sc.get x).state := by simp [settings]
  have hlevel : (((s.modifySc x settings).sc.get x).level) = level := by simp [settings]
  have hidle : ¬((s.sc.get x).state = .arming ∨ (s.sc.get x).state = .armed) → sideLaw (s.modifySc x settings) :=
    fun hst => sideLaw_modifySc hs ((hs x).withLevel hst level autoArm d)
  have hdriven : (s.sc.get x).state = .arming ∨ (s.sc.get x).state = .armed →
      sideLaw (if level = .off then lowerSupply x (s.modifySc x settings) else rampAgain x (s.modifySc x settings)) := by
    intro hst
    have hlowered := (hs x).lowered_of_driven hst
    split
    · refine lowerSupply_sideLaw ?_
      rw [State.modifySc_modifySc]
      exact sideLaw_modifySc hs (Sc.law_supplyOff_lowered hlowered)
    · refine sideLaw_of_internal (notifyDeparture_internal x _ _) (supplyFaultCheck_sideLaw x ?_)
      rw [enterArming, State.modifySc_modifySc]
      exact sideLaw_modifySc hs (Sc.law_arming (c := settings (s.sc.get x)) hlowered ‹_› _)
  unfold setSide
  dsimp only
  split
  · rename_i hsame
    refine sideLaw_modifySc hs ?_
    rw [hsame]
    exact hs x
  · unfold moveForLevel
    rw [hstate, hlevel]
    split
    case h_1 hst | h_2 hst | h_3 hst => exact hidle (by simp [hst])
    case h_4 hst => exact hdriven (.inl hst)
    case h_5 hst => exact hdriven (.inr hst)

theorem clearSideFault_sideLaw {s : State} (x : Side) (hs : sideLaw s) : sideLaw (clearSideFault x s) := by
  unfold clearSideFault
  split
  · rename_i hst
    split
    · rename_i hl
      refine supplyFaultCheck_sideLaw x (autoArmCheck_sideLaw ?_ ?_)
      · exact sideLaw_modifySc hs ((hs x).clear hst .lowered (.inl ⟨hl, rfl⟩))
      · simpa using hl
    · rename_i hl
      exact sideLaw_modifySc hs ((hs x).clear hst .parked (.inr ⟨Bool.eq_false_iff.2 hl, rfl⟩))
  · exact hs

/-! ## Requests and events -/

theorem sideLaw_of_effect {c : Instr} {s t : State} (h : Effect c s t) (hs : sideLaw s) : sideLaw t := by
  cases h
  case unchanged => exact hs
  case setSide => exact setSide_sideLaw _ _ _ _ hs
  case armSide x lowered on =>
    refine supplyFaultCheck_sideLaw x (enterArming_sideLaw hs ?_ on)
    obtain ⟨-, -, hraised, -, -⟩ := hs x
    refine Decidable.byContradiction fun hl => ?_
    rcases hraised (Bool.eq_false_iff.2 hl) with e | e <;> rw [lowered] at e <;> cases e
  case disarmSide => exact disarmSide_sideLaw _ hs
  case clearSideFault => exact clearSideFault_sideLaw _ hs
  case clearChannelFault => exact sideLaw_modifySc hs (hs _)
  case setChannel x ch r =>
    have hset := sideLaw_modifySc (x := x)
      (g := fun sc => { sc with pendingRecords := sc.pendingRecords.set ch (some r) }) hs (hs x)
    unfold setChannel
    dsimp only
    split
    · exact sideLaw_of_internal (recordTakesEffect_internal x _ ch) hset
    · exact hset
  case setProfile x n v =>
    exact sideLaw_of_sc (sideLaw_modifySc (g := fun sc => { sc with profiles := sc.profiles.set n v }) hs (hs x)) rfl
  case swapNow => exact sideLaw_of_internal (swapPlans_internal s) hs
  case startRun => exact sideLaw_of_internal (placeRunstate_internal _ _ _) (sideLaw_of_sc hs rfl)
  case stopRun => exact sideLaw_of_internal (beginStop_internal _ s) hs
  case setOdometry | presetPosition => exact sideLaw_of_sc hs (commitDu_sc _ _ s)
  all_goals exact sideLaw_of_sc hs rfl

theorem sideLaw_of_taking {c : Instr} {s t : State} (h : Taking c s t) (hs : sideLaw s) : sideLaw t := by
  obtain ⟨a, -, effect⟩ := h
  exact sideLaw_of_sc (sideLaw_of_effect effect (sideLaw_of_sc (t := dropFrame s) hs rfl)) rfl

theorem forwardCount_sideLaw {s : State} (first : Side) (hs : sideLaw s) : sideLaw (forwardCount first s) := by
  have hcommit : ∀ latch d, sideLaw (commitDu latch d s) := fun latch d => sideLaw_of_sc hs (commitDu_sc latch d s)
  have hfire : ∀ z u, sideLaw u → sideLaw (fireBoundary first z u) := fun z u hu =>
    fireBoundary_keeps (P := sideLaw) (fun _ _ => sideLaw_of_internal)
      (fun v b h => sideLaw_of_sc h (State.setBoundary_sc v b)) (fun v _ h => sideLaw_of_sc h (State.setIt_sc v _))
      first z hu
  unfold forwardCount
  dsimp only
  split
  · exact hcommit _ _
  · split
    · split
      · exact hfire _ _ (hcommit _ _)
      · exact hcommit _ _
    · exact sideLaw_of_internal (beginStop_internal _ _) (hcommit _ _)

theorem loadFault_sideLaw {s : State} (x : Side) (ch : Channel) (l : FaultLatch) (hs : sideLaw s) :
    sideLaw (loadFault x ch l s) := by
  unfold loadFault
  split
  · exact sideLaw_of_internal (raiseSide_internal x _ _) (sideLaw_modifySc hs (hs x))
  · exact hs

theorem completeShot_sideLaw {s : State} (x : Side) (load : LoadStatus) (trace : List Nat) (hs : sideLaw s) :
    sideLaw (completeShot x load trace s) :=
  completeShot_keeps (P := sideLaw) (fun _ _ h => sideLaw_of_sc h rfl) (fun _ y ch l h => loadFault_sideLaw y ch l h)
    (fun _ y ch good h => sideLaw_of_internal (couplingResult_internal y ch good _) h)
    (fun _ y due _ h => sideLaw_of_internal (reachShots_internal y due _) (sideLaw_of_sc h rfl)) x load trace hs

theorem sideLaw_of_sending {s t : State} (h : Sending s t) (hs : sideLaw s) : sideLaw t := by
  cases h with
  | nothing => exact hs
  | frame => exact sideLaw_of_sc hs rfl
  | motion => exact sideLaw_of_sc hs rfl
  | @flaw l =>
    exact sideLaw_of_internal (drainEndTest_internal _)
      (sideLaw_of_internal (releaseClusters_internal (s.setLi l)) (sideLaw_of_sc hs rfl))

theorem runReset_sideLaw {s : State} (hs : sideLaw s) : sideLaw (runReset s) :=
  runReset_keeps (fun _ _ => sideLaw_of_internal) (fun u r h => sideLaw_of_sc h (State.setRc_sc u r))
    (sideLaw_of_sc hs rfl)

theorem takeOldest_sideLaw {s : State} (hs : sideLaw s) : sideLaw (takeOldest s) := by
  rcases takeOldest_cases s with h | ⟨c, h⟩
  · rw [h]; exact hs
  · exact sideLaw_of_taking h hs

theorem resetRunActs_sideLaw {s : State} (hs : sideLaw s) : sideLaw (resetRunActs s) := by
  rw [resetRunActs_eq]
  exact takeOldest_sideLaw (runReset_sideLaw hs)

/-- R39: the FULL column keeps the carriage, and a raised carriage is PARKED there. -/
theorem Sc.law_resetFull (c : Sc) : c.resetFull.law := Sc.law_reset c.lowered c.hvrdy c.hvflt

theorem resetFullActs_sideLaw (s : State) : sideLaw (resetFullActs s) := by
  refine sideLaw_of_internal (placeRunstate_internal _ _ _) (fun x => ?_)
  cases x
  · exact Sc.law_resetFull s.sc.a
  · exact Sc.law_resetFull s.sc.b

theorem actAwaited_keeps {P : State → Prop} {scope : Scope} {act : State → State} {s : State} (hs : P s)
    (hact : P (act s)) : P (actAwaited scope act s) := by
  unfold actAwaited
  split
  · exact hact
  · exact hs

theorem sideLaw_of_event {c : Instr} {s t : State} (h : Event c s t) (hs : sideLaw s) : sideLaw t := by
  cases h
  case forwardCount => exact forwardCount_sideLaw _ hs
  case reverseCount =>
    unfold reverseCount
    dsimp only
    split
    · exact sideLaw_of_sc hs (commitDu_sc _ _ s)
    · split <;> exact sideLaw_of_sc hs (commitDu_sc _ _ s)
  case illegalTransition => exact sideLaw_of_sc hs (commitDu_sc _ _ s)
  case standstillTimerExpiry =>
    unfold standstillExpiry
    split
    · exact hs
    · exact sideLaw_of_sc hs (commitDu_sc _ _ _)
  case carriageInputChange => exact sideLaw_modifySc hs (hs _)
  case debounceExpiry => exact debounceExpiry_sideLaw _ hs
  case hvrdyArrival => exact hvrdyArrival_sideLaw _ hs
  case hvrdyFall => exact sideLaw_modifySc hs (hs _)
  case hvfltAsserted => exact hvfltChange_sideLaw _ _ hs
  case rampTimerExpiry => exact rampExpiry_sideLaw _ hs
  case planSwapAtBoundary => exact sideLaw_of_internal (planSwapAtBoundary_internal s) hs
  case channelRecordTakesEffect =>
    split
    · exact sideLaw_of_internal (recordTakesEffect_internal _ s _) hs
    · exact hs
  case shotCompletion => exact completeShot_sideLaw _ _ _ hs
  case stepEvaluation =>
    exact sideLaw_of_internal (drainTest_internal _) (sideLaw_of_internal (stepEvaluation_internal _ s) hs)
  case clusterRelease => exact sideLaw_of_internal (drainEndTest_internal _) (sideLaw_of_sc hs rfl)
  case drainReleasePhase => exact sideLaw_of_internal (drainTest_internal s) hs
  case drainEnd => exact sideLaw_of_internal (drainEndTest_internal s) hs
  case idleTimerExpiry =>
    unfold idleExpiry
    split
    · exact hs
    · exact sideLaw_of_sc hs rfl
  case holdInRelease => exact sideLaw_of_sending (transmissionStart_cases _) (sideLaw_of_sc hs rfl)
  case transmissionStart => exact sideLaw_of_sending (transmissionStart_cases s) hs
  case transmissionEnd =>
    unfold transmissionEnd
    split
    · exact hs
    · exact sideLaw_of_sc hs rfl
  case resetRunActs => exact actAwaited_keeps hs (resetRunActs_sideLaw hs)
  case resetFullActs => exact actAwaited_keeps hs (resetFullActs_sideLaw s)
  all_goals exact sideLaw_of_sc hs rfl

/-- Settles O56: the law is kept by every request and event, since it is kept by each move of the side state. -/
theorem sideLawKept : Obligations.SideLawKept := by
  intro s t hs h
  refine step_keeps (P := sideLaw) (fun u c rest hu => sideLaw_of_sc hu (u.started_sc c rest)) (fun pins u => ?released)
    (fun _ _ _ _ hu ht => sideLaw_of_taking ht hu) (fun _ _ _ _ hu he => sideLaw_of_event he hu) hs h
  case released =>
    intro x
    cases x
    · exact Sc.law_reset pins.carA pins.hvrdyA pins.hvfltA
    · exact Sc.law_reset pins.carB pins.hvrdyB pins.hvfltB

end Sys2Proof.Machine

/-!
The Distance Unit's ranges (R3 to R5, R11 to R13, R15): what each count, expiry and request makes of them, and that every
step keeps them.
-/
namespace Sys2Proof.Machine

/-! ## One Distance Unit -/

theorem motionForward_ne_standstill (step hwm : Int) : motionForward step hwm ≠ .standstill := by
  unfold motionForward
  split <;> exact nofun

theorem periodBetween_bounds (r now : Nat) : 1 ≤ periodBetween r now ∧ periodBetween r now ≤ Config.maxPeriod := by
  have hmax : Config.maxPeriod = 16777215 := rfl
  unfold periodBetween
  omega

theorem Du.stepLength_pos {d : Du} (h : d.law) (z : Int) : 0 < d.stepLength z := by
  have hn := h.1
  have hle := d.le_stepLength z
  omega

theorem Du.law_reset (pair : EncoderPair) : (Du.reset pair).law := by
  simp [Du.law, Du.reset, Du.stepLength, extraCount, Config.minStep, Config.maxStep]

namespace Du.law
variable {d : Du} (h : d.law)
include h

/-- R13: FAST follows a period, and is off without one. -/
theorem withFast {b : Bool} (hb : d.period = none → b = false) : ({ d with fast := b } : Du).law := by
  obtain ⟨hn, hn', hk, ht, ht', hs, hs', hh, hh', hp, hperiod, -, hstill⟩ := h
  exact ⟨hn, hn', hk, ht, ht', hs, hs', hh, hh', hp, hperiod, hb, hstill⟩

/-- R4: a forward count within a step. -/
theorem forwardWithin {pos : Nat} (hpos : pos < d.stepLength d.step) (pair : EncoderPair) (t : Nat) {m : MotionState}
    (hm : m ≠ .standstill) :
    ({ d with lastPair := pair, standstill := some t, pos := pos, motion := m } : Du).law := by
  obtain ⟨hn, hn', hk, ht, ht', hs, hs', hh, hh', -, hperiod, hfast, -⟩ := h
  exact ⟨hn, hn', hk, ht, ht', hs, hs', hh, hh', hpos, hperiod, hfast, by simp [hm]⟩

/-- R12, R13: the period between two boundaries. -/
theorem boundaryPeriod (now planTime : Nat) : (d.boundaryPeriod now planTime).law := by
  obtain ⟨hn, hn', hk, ht, ht', hs, hs', hh, hh', hp, hperiod, -, hstill⟩ := h
  refine ⟨hn, hn', hk, ht, ht', hs, hs', hh, hh', hp, fun p hq => ?_, fun hnone => ?_, hstill⟩
  · cases hr : d.reference with
    | none =>
      simp only [Du.boundaryPeriod, hr] at hq
      exact ⟨(hperiod p hq).1, (hperiod p hq).2.1, rfl⟩
    | some r =>
      simp only [Du.boundaryPeriod, hr, Option.some.injEq] at hq
      obtain ⟨hlow, hhigh⟩ := periodBetween_bounds r now
      exact ⟨hq ▸ hlow, hq ▸ hhigh, rfl⟩
  · simp only [Du.boundaryPeriod] at hnone ⊢
    rw [hnone]
    rfl

/-- R4, R10: a forward boundary, whether it raises the high-water mark or not. -/
theorem forwardBoundary (pair : EncoderPair) (now planTime : Nat) {hwm : Int} (hstep : d.step < Config.maxStep)
    (hlow : Config.minStep ≤ hwm) (hhigh : hwm ≤ Config.maxStep) :
    ((d.takeCount pair now).forwardBoundary hwm now planTime).law := by
  have hmoved : ({ d with
      lastPair := pair, standstill := some (d.timeoutAt now), step := d.step + 1, pos := 0, hwm := hwm
      motion := motionForward (d.step + 1) hwm } : Du).law := by
    have hlength := Du.stepLength_pos h (d.step + 1)
    obtain ⟨hn, hn', hk, ht, ht', hs, -, -, -, -, hperiod, hfast, -⟩ := h
    refine ⟨hn, hn', hk, ht, ht', ?_, ?_, hlow, hhigh, hlength, hperiod, hfast, ?_⟩
    · exact Int.le_trans hs (Int.le_add_one (Int.le_refl _))
    · exact hstep
    · simp [motionForward_ne_standstill]
  exact hmoved.boundaryPeriod now planTime

/-- R6: a forward range end. -/
theorem forwardEnd (pair : EncoderPair) (t : Nat) (b : Bool) {m : MotionState} (hm : m ≠ .standstill) :
    ({ d with lastPair := pair, standstill := some t, motion := m, rangeEnd := b } : Du).law := by
  obtain ⟨hn, hn', hk, ht, ht', hs, hs', hh, hh', hp, hperiod, hfast, -⟩ := h
  exact ⟨hn, hn', hk, ht, ht', hs, hs', hh, hh', hp, hperiod, hfast, by simp [hm]⟩

/-- R5, R10, R12: what every reverse count does besides its move. -/
theorem reverseWithin {step : Int} {pos : Nat} (hlow : Config.minStep ≤ step) (hhigh : step ≤ Config.maxStep)
    (hpos : pos < d.stepLength step) (pair : EncoderPair) (t : Nat) (b : Bool) :
    ({ d with
      lastPair := pair, standstill := some t, reference := none, period := none, fast := false, motion := .reverse
      step := step, pos := pos, rangeEnd := b } : Du).law := by
  obtain ⟨hn, hn', hk, ht, ht', -, -, hh, hh', -, -, -, -⟩ := h
  exact ⟨hn, hn', hk, ht, ht', hlow, hhigh, hh, hh', hpos, nofun, fun _ => rfl, by simp⟩

/-- R2. -/
theorem illegal (pair : EncoderPair) (b : Bool) : ({ d with lastPair := pair, encoderError := b } : Du).law := h

/-- R167: the latches. -/
theorem latches (b c : Bool) : ({ d with encoderError := b, rangeEnd := c } : Du).law := h

/-- R10, R11. -/
theorem standstill : ({ d.unknownPeriod with motion := .standstill, standstill := none } : Du).law := by
  obtain ⟨hn, hn', hk, ht, ht', hs, hs', hh, hh', hp, -, -, -⟩ := h
  exact ⟨hn, hn', hk, ht, ht', hs, hs', hh, hh', hp, nofun, fun _ => rfl, fun _ => rfl, fun _ => rfl⟩

/-- R15. -/
theorem setOdometry {n k timeout : Nat} (hn : 1 ≤ n ∧ n ≤ 255) (hk : k ≤ 3) (ht : 50 ≤ timeout ∧ timeout ≤ 5000)
    (sense : Sense) (now : Nat) : (d.setOdometry n k timeout sense now).law := by
  obtain ⟨-, -, -, -, -, hs, hs', hh, hh', -, -, -, hstill⟩ := h
  refine ⟨hn.1, hn.2, hk, ht.1, ht.2, hs, hs', hh, hh', ?_, nofun, fun _ => rfl, ?_⟩
  · exact Nat.lt_of_lt_of_le hn.1 (Nat.le_add_right n _)
  · simpa [Du.setOdometry, Du.unknownPeriod] using hstill

/-- R16. -/
theorem preset {z : Int} (hlow : Config.minStep ≤ z) (hhigh : z ≤ Config.maxStep) : (d.preset z).law := by
  have hlength := Du.stepLength_pos h z
  obtain ⟨hn, hn', hk, ht, ht', -, -, -, -, -, -, -, hstill⟩ := h
  refine ⟨hn, hn', hk, ht, ht', hlow, hhigh, hlow, hhigh, hlength, nofun, fun _ => rfl, hstill.trans ?_⟩
  show d.motion = .standstill ↔ motionPreset d.motion = .standstill
  cases d.motion <;> simp [motionPreset]

end Du.law

theorem s32_bounds (p : List Byte) (i : Nat) : Config.minStep ≤ s32 p i ∧ s32 p i ≤ Config.maxStep := by
  have h0 := u8_lt p i
  have h1 := u8_lt p (i + 1)
  have h2 := u8_lt p (i + 2)
  have h3 := u8_lt p (i + 2 + 1)
  have hmin : Config.minStep = -2147483648 := rfl
  have hmax : Config.maxStep = 2147483647 := rfl
  unfold s32 u16
  dsimp only
  split <;> omega

/-! ## The law in the whole state -/

theorem duLaw_of_internal {s t : State} (h : Internal s t) (hs : s.du.law) : t.du.law := by
  obtain ⟨b, hdu, hb⟩ := h.du
  rw [hdu]
  refine hs.withFast fun hnone => ?_
  rcases hb with rfl | ⟨n, rfl⟩
  · obtain ⟨-, -, -, -, -, -, -, -, -, -, -, hfast, -⟩ := hs
    exact hfast hnone
  · rw [hnone]
    rfl

@[simp] theorem commitDu_du (latch : MotionCauses) (d : Du) (s : State) : (commitDu latch d s).du = d := by
  obtain ⟨l, heq, -⟩ := commitDu_frame latch d s
  rw [heq]

theorem forwardCount_duLaw {s : State} (first : Side) (hs : s.du.law) : (forwardCount first s).du.law := by
  obtain ⟨-, -, -, -, -, hlow, -, hmark, hmark', -⟩ := id hs
  unfold forwardCount
  extract_lets d
  split
  · rw [commitDu_du]
    exact hs.forwardWithin ‹_› _ _ (motionForward_ne_standstill _ _)
  · split
    · rename_i hstep
      split
      · refine fireBoundary_keeps (P := fun u => u.du.law) (fun _ _ => duLaw_of_internal)
          (fun u b h => (State.setBoundary_du u b).symm ▸ h) (fun u _ h => (State.setIt_du u _).symm ▸ h) _ _ ?_
        rw [commitDu_du]
        exact hs.forwardBoundary _ _ _ hstep (Int.le_trans hlow (Int.le_add_one (Int.le_refl _))) hstep
      · rw [commitDu_du]
        exact hs.forwardBoundary _ _ _ hstep hmark hmark'
    · refine duLaw_of_internal (beginStop_internal _ _) ?_
      rw [commitDu_du]
      exact hs.forwardEnd _ _ _ (motionForward_ne_standstill _ _)

theorem reverseCount_duLaw {s : State} (hs : s.du.law) : (reverseCount s).du.law := by
  obtain ⟨-, -, -, -, -, hlow, hhigh, -, -, hpos, -⟩ := id hs
  unfold reverseCount
  extract_lets d
  split
  · rw [commitDu_du]
    exact hs.reverseWithin hlow hhigh (Nat.lt_of_le_of_lt (Nat.sub_le _ 1) hpos) _ _ _
  · split
    · rename_i hstep
      rw [commitDu_du]
      have hlength : 0 < s.du.stepLength (s.du.step - 1) := Du.stepLength_pos hs (s.du.step - 1)
      exact hs.reverseWithin (Int.le_sub_one_of_lt hstep) (Int.le_trans (Int.sub_le_self _ (by decide)) hhigh)
        (Nat.sub_lt hlength (by decide)) _ _ _
    · rw [commitDu_du]
      exact hs.reverseWithin hlow hhigh hpos _ _ _

theorem duLaw_sideKept : SideKept (fun s => s.du.law) :=
  .ofInternal (fun _ _ => duLaw_of_internal) (fun s x g h => (State.modifySc_du s x g).symm ▸ h)
    (fun s n h => (State.advanceTo_du s n).symm ▸ h)

theorem duLaw_of_effect {c : Instr} {s t : State} (h : Effect c s t) (hs : s.du.law) : t.du.law := by
  cases h with
  | setOdometry idle hn hk ht =>
    rw [commitDu_du]
    exact hs.setOdometry hn hk ht _ _
  | @presetPosition _ p idle =>
    rw [commitDu_du]
    exact hs.preset (s32_bounds p 0).1 (s32_bounds p 0).2
  | setSide => exact duLaw_sideKept.setSide _ _ _ _ hs
  | @armSide _ x => exact duLaw_sideKept.supplyFaultCheck _ (duLaw_sideKept.enterArming x hs)
  | disarmSide => exact duLaw_sideKept.disarmSide _ hs
  | clearSideFault => exact duLaw_sideKept.clearSideFault _ hs
  | @setChannel _ x ch r =>
    have hset := duLaw_sideKept.modify x (fun sc => { sc with pendingRecords := sc.pendingRecords.set ch (some r) })
      (fun _ => rfl) hs
    unfold setChannel
    dsimp only
    split
    · exact duLaw_of_internal (recordTakesEffect_internal x _ ch) hset
    · exact hset
  | swapNow => exact duLaw_of_internal (swapPlans_internal s) hs
  | startRun => exact duLaw_of_internal (placeRunstate_internal _ _ _) (by exact hs)
  | stopRun => exact duLaw_of_internal (beginStop_internal _ s) hs
  | _ => exact hs

theorem duLaw_of_taking {c : Instr} {s t : State} (h : Taking c s t) (hs : s.du.law) : t.du.law := by
  obtain ⟨a, -, effect⟩ := h
  have hbody := duLaw_of_effect effect (show (dropFrame s).du.law from hs)
  exact hbody

theorem duLaw_of_sending {s t : State} (h : Sending s t) (hs : s.du.law) : t.du.law := by
  cases h with
  | nothing => exact hs
  | frame => exact hs
  | motion => exact hs.latches _ _
  | @flaw l =>
    exact duLaw_of_internal (drainEndTest_internal _) (duLaw_of_internal (releaseClusters_internal (s.setLi l)) hs)

theorem resetRunActs_duLaw {s : State} (hs : s.du.law) : (resetRunActs s).du.law := by
  have hreset : (runReset s).du.law := runReset_keeps (P := fun u => u.du.law) (fun _ _ => duLaw_of_internal)
    (fun u r h => (State.setRc_du u r).symm ▸ h) hs
  rw [resetRunActs_eq]
  rcases takeOldest_cases (runReset s) with h | ⟨c, h⟩
  · rw [h]; exact hreset
  · exact duLaw_of_taking h hreset

theorem resetFullActs_duLaw (s : State) : (resetFullActs s).du.law :=
  duLaw_of_internal (placeRunstate_internal _ _ _) (Du.law_reset s.du.lastPair)

theorem duLaw_of_event {c : Instr} {s t : State} (h : Event c s t) (hs : s.du.law) : t.du.law := by
  cases h with
  | forwardCount => exact forwardCount_duLaw _ hs
  | reverseCount => exact reverseCount_duLaw hs
  | illegalTransition =>
    unfold illegalTransition
    rw [commitDu_du]
    exact hs.illegal _ _
  | standstillTimerExpiry =>
    unfold standstillExpiry
    split
    · exact hs
    · rw [commitDu_du]
      exact hs.standstill
  | debounceExpiry => exact duLaw_sideKept.debounceExpiry _ hs
  | hvrdyArrival => exact duLaw_sideKept.hvrdyArrival _ hs
  | hvfltAsserted => exact duLaw_sideKept.hvfltChange _ _ hs
  | rampTimerExpiry => exact duLaw_sideKept.rampExpiry _ hs
  | planSwapAtBoundary => exact duLaw_of_internal (planSwapAtBoundary_internal s) hs
  | channelRecordTakesEffect =>
    split
    · exact duLaw_of_internal (recordTakesEffect_internal _ s _) hs
    · exact hs
  | shotCompletion =>
    exact completeShot_keeps (P := fun u => u.du.law) (fun _ n h => duLaw_sideKept.waits n h)
      (fun _ y ch l h => duLaw_sideKept.loadFault y ch l h)
      (fun _ y ch good h => duLaw_of_internal (couplingResult_internal y ch good _) h)
      (fun u y due g h => duLaw_of_internal (reachShots_internal y due (u.modifyFiring y g)) h) _ _ _ hs
  | stepEvaluation =>
    exact duLaw_of_internal (drainTest_internal _) (duLaw_of_internal (stepEvaluation_internal _ s) hs)
  | clusterRelease =>
    exact duLaw_of_internal (drainEndTest_internal (s.setTrack (s.track.releaseFront s.du.hwm))) hs
  | drainReleasePhase => exact duLaw_of_internal (drainTest_internal s) hs
  | drainEnd => exact duLaw_of_internal (drainEndTest_internal s) hs
  | idleTimerExpiry =>
    unfold idleExpiry
    split <;> exact hs
  | holdInRelease => exact duLaw_of_sending (transmissionStart_cases _) hs
  | transmissionStart => exact duLaw_of_sending (transmissionStart_cases s) hs
  | transmissionEnd =>
    unfold transmissionEnd
    split <;> exact hs
  | resetRunActs => exact actAwaited_keeps (P := fun u => u.du.law) hs (resetRunActs_duLaw hs)
  | resetFullActs => exact actAwaited_keeps (P := fun u => u.du.law) hs (resetFullActs_duLaw s)
  | _ => exact hs

/-- R3 to R5, R11 to R13, R15: every step keeps the Distance Unit's ranges. -/
theorem step_keeps_duLaw {s t : State} (hs : s.du.law) (h : step s = .next t) : t.du.law :=
  step_keeps (P := fun u => u.du.law) (fun u c rest hu => (u.started_du c rest).symm ▸ hu)
    (fun pins _ => Du.law_reset ⟨pins.ea, pins.eb⟩) (fun _ _ _ _ hu ht => duLaw_of_taking ht hu)
    (fun _ _ _ _ hu he => duLaw_of_event he hu) hs h

end Sys2Proof.Machine

/-!
The bounds of the link (R148, R156, R160, R162, R165): which changes of the Link Interface keep them, and that every step
does.
-/
namespace Sys2Proof.Machine

/-! ## The slots and the flaw queue -/

theorem Li.law.placeMotion {l : Li} (h : l.law) (c : MotionCauses) (r : MotionReport) : (l.placeMotion c r).law := by
  unfold Li.placeMotion
  split <;> exact h

theorem Li.law.placeRunstate {l : Li} (h : l.law) (c : RunCauses) (w : Option (Int × SwapPlace)) (r : RunstateReport) :
    (l.placeRunstate c w r).law := by
  unfold Li.placeRunstate
  split <;> exact h

theorem Li.law.placeSide {l : Li} (h : l.law) (x : Side) (e : BitVec 6) (m : Bool) : (l.placeSide x e m).law := by
  unfold Li.placeSide
  split <;> exact h

theorem Li.law.placeCoupling {l : Li} (h : l.law) (x : Side) (ch : Channel) (m : Bool) :
    (l.placeCoupling x ch m).law := by
  unfold Li.placeCoupling
  split <;> exact h

/-- R135: a FLAW report joins the queue only when it has a free place. -/
theorem Li.law.appendFlaw {l : Li} (h : l.law) (hfree : l.flawQueue.length < Config.flawPlaces) (r : FlawReport) :
    (l.appendFlaw r).law := by
  obtain ⟨hreceiver, hheld, -, hgap⟩ := h
  refine ⟨hreceiver, hheld, ?_, hgap⟩
  simp only [Li.appendFlaw, List.length_append, List.length_singleton]
  exact hfree

theorem mergeLast_length {rs : List GapRange} (h : rs ≠ []) (g : GapRange) :
    (mergeLast rs g).length = rs.length := by
  obtain ⟨before, r, rfl⟩ : ∃ before r, rs = before ++ [r] := ⟨_, _, (List.dropLast_concat_getLast h).symm⟩
  rw [mergeLast_append]
  simp

/-- R148, R149: a report takes a ninth range into its last one. -/
theorem GapReport.add_length {r : GapReport} (h : 1 ≤ r.ranges.length ∧ r.ranges.length ≤ Config.gapRanges)
    (g : GapRange) : 1 ≤ (r.add g).ranges.length ∧ (r.add g).ranges.length ≤ Config.gapRanges := by
  unfold GapReport.add
  split
  · rename_i hfree
    simp only [List.length_append, List.length_singleton]
    exact ⟨Nat.le_add_left 1 _, hfree⟩
  · have hne : r.ranges ≠ [] := List.ne_nil_of_length_pos h.1
    rw [mergeLast_length hne]
    exact h

theorem Li.law.placeGap {l : Li} (h : l.law) (x : Side) (g : GapRange) : (l.placeGap x g).law := by
  obtain ⟨hreceiver, hheld, hflaw, hgap⟩ := h
  unfold Li.placeGap
  split
  · refine ⟨hreceiver, hheld, hflaw, fun y p hp => ?_⟩
    rw [PerSide.get_set] at hp
    split at hp
    · cases hp
      exact ⟨Nat.le_refl 1, Nat.le_add_left 1 7⟩
    · exact hgap y p hp
  · rename_i q hq
    refine ⟨hreceiver, hheld, hflaw, fun y p hp => ?_⟩
    rw [PerSide.get_set] at hp
    split at hp
    · cases hp
      exact GapReport.add_length (hgap x q hq) g
    · exact hgap y p hp

theorem foldl_placeGap_law (x : Side) : ∀ (gs : List GapRange) {l : Li}, l.law →
    (gs.foldl (fun l g => l.placeGap x g) l).law
  | [], _, h => h
  | g :: gs, _, h => foldl_placeGap_law x gs (h.placeGap x g)

/-! ## The link of a tracker -/

/-- A law of the link that the release of the front cluster keeps. -/
def FrontKept (Q : Li → Prop) : Prop := ∀ (hwm : Int) (k : Track), Q k.li → Q (k.releaseFront hwm).li

theorem linkLaw_frontKept : FrontKept Li.law := by
  intro hwm k h
  unfold Track.releaseFront
  split
  · exact h
  · split
    · exact h.appendFlaw ‹_› _
    · exact h

namespace FrontKept
variable {Q : Li → Prop} (hq : FrontKept Q) {hwm : Int}
include hq

theorem releaseLoop : ∀ (n : Nat) (k : Track), Q k.li → Q (k.releaseLoop hwm n).li
  | 0, _, h => h
  | n + 1, k, h => releaseLoop n _ (hq hwm k h)

theorem releaseAll {k : Track} (h : Q k.li) : Q (k.releaseAll hwm).li := by
  unfold Track.releaseAll
  exact hq.releaseLoop 64 k h

theorem startCluster {k : Track} (j : Fin 64) (a : Indication) (h : Q k.li) : Q (k.startCluster hwm j a).li := by
  unfold Track.startCluster
  dsimp only
  split
  · exact hq.releaseAll h
  · exact h

theorem form {k : Track} (j : Fin 64) (a : Indication) (h : Q k.li) : Q (k.form hwm j a).li := by
  unfold Track.form
  split
  · exact hq.startCluster j a h
  · split
    · exact h
    · exact hq.startCluster j a h
  · split
    · exact h
    · split
      · exact h
      · exact hq.startCluster j a h

theorem close {k : Track} (i : Fin 64) (a : Indication) (h : Q k.li) : Q (k.close hwm i a).li := by
  unfold Track.close
  split
  · exact h
  · exact hq.form i a h

theorem closeTest {k : Track} (x : Side) (z : Int) (i : Fin 64) (h : Q k.li) : Q (k.closeTest hwm x z i).li := by
  unfold Track.closeTest
  split
  · split
    · split
      · exact hq.close i _ h
      · split
        · exact hq.close i _ h
        · exact h
    · exact h
  · exact h
  · exact h

theorem closeWith {k : Track} (m : IndicationFlags → IndicationFlags) (i : Fin 64) (h : Q k.li) :
    Q (k.closeWith hwm m i).li := by
  unfold Track.closeWith
  split
  · exact hq.close i _ h
  · exact h
  · exact h

omit hq in
theorem foldl {g : Track → Fin 64 → Track} (hg : ∀ k i, Q k.li → Q (g k i).li) :
    ∀ (l : List (Fin 64)) {k : Track}, Q k.li → Q (l.foldl g k).li
  | [], _, h => h
  | i :: l, k, h => foldl hg l (hg k i h)

theorem closeAll {k : Track} (m : IndicationFlags → IndicationFlags) (h : Q k.li) : Q (k.closeAll hwm m).li :=
  foldl (fun _ i => hq.closeWith m i) allEntries h

theorem evaluate {k : Track} (c : EvalContext) (l : ShotList) (es : List OutcomeEntry) (h : Q k.li) :
    Q (k.evaluate hwm c l es).1.li := by
  unfold Track.evaluate
  dsimp only
  exact foldl (fun _ i => hq.closeTest c.side c.step i) allEntries (by exact h)

end FrontKept

theorem releaseClusters_frontKept {Q : Li → Prop} (hq : FrontKept Q) {s : State} (h : Q s.li) :
    Q (releaseClusters s).li := by
  rw [releaseClusters, State.setTrack_li]
  exact hq.releaseAll h

/-! ## The inner operations -/

theorem commitDu_linkLaw {s : State} (latch : MotionCauses) (d : Du) (h : s.li.law) : (commitDu latch d s).li.law := by
  unfold commitDu
  dsimp only
  split
  · exact h.placeMotion _ _
  · exact h

theorem swapPlans_linkLaw {s : State} (h : s.li.law) : (swapPlans s).li.law := by
  rw [swapPlans_eq]
  exact commitDu_linkLaw _ _ h

theorem recordTakesEffect_li (x : Side) (s : State) (ch : Channel) : (recordTakesEffect x s ch).li = s.li := by
  unfold recordTakesEffect
  split <;> rfl

theorem State.recorder_li (s : State) (x : Side) : (s.recorder x).li = s.li := rfl

/-- A step evaluation reaches the link through the tracker and then through the Gap Recorder. -/
theorem stepEvaluation_linkLaw {s : State} (x : Side) (h : s.li.law) : (stepEvaluation x s).li.law := by
  unfold stepEvaluation
  split
  · exact h
  · rename_i r rest hr
    dsimp only
    rw [State.setSe_li, State.setRecorder_li, Recorder.evaluate_li, State.recorder_li, State.setTrack_li]
    refine foldl_placeGap_law x _ ?_
    dsimp only
    refine linkLaw_frontKept.evaluate _ _ _ ?_
    exact h

theorem drainGaps_linkLaw {s : State} (x : Side) (h : s.li.law) : (drainGaps x s).li.law := by
  unfold drainGaps
  rw [State.setRecorder_li, Recorder.drain_li]
  exact foldl_placeGap_law x _ h

theorem trackerBoundary_linkLaw {s : State} (z : Int) (h : s.li.law) : (trackerBoundary z s).li.law := by
  unfold trackerBoundary
  refine releaseClusters_frontKept linkLaw_frontKept ?_
  rw [State.setIt_li]
  exact h

theorem linkLaw_innerKept : InnerKept (fun s => s.li.law) where
  runstate c w h := h.placeRunstate c w _
  swap := swapPlans_linkLaw
  record x ch h := by rw [recordTakesEffect_li]; exact h
  gaps x h := drainGaps_linkLaw x h
  free _ h := h
  run _ _ _ _ h := h
  release h := releaseClusters_frontKept linkLaw_frontKept h
  closing m h := by rw [State.setTrack_li]; exact linkLaw_frontKept.closeAll m h
  sealing {s} h := (State.setIt_li s _).symm ▸ h
  side x e m h := h.placeSide x e m
  coupling x ch m h := h.placeCoupling x ch m
  step x h := stepEvaluation_linkLaw x h
  engine _ _ h := h

theorem linkLaw_sideKept : SideKept (fun s => s.li.law) where
  modify _ _ _ h := h
  raise x e h := linkLaw_innerKept.raiseSide x e h
  abort x h := linkLaw_innerKept.abortList x h
  waits _ h := h

/-! ## The Frame Receiver -/

theorem Receiver.law_hunting : Receiver.hunting.law := ⟨fun _ => ⟨rfl, rfl⟩, nofun⟩

/-- R159: a first class byte is short of any frame. -/
theorem Receiver.law_started (b : Byte) (t : Nat) : (Receiver.mk true [b] false (some t)).law :=
  ⟨nofun, fun _ => ⟨rfl, Nat.le_refl 1, rfl, fun h => absurd h (by simp)⟩⟩

theorem Li.law.hunting {l : Li} (h : l.law) (latches : LinkLatches) :
    ({ l with receiver := Receiver.hunting, latches := latches } : Li).law := ⟨Receiver.law_hunting, h.2⟩

theorem Li.law.startFrame {l : Li} (h : l.law) (now : Nat) (c : Character) : (l.startFrame now c).law :=
  ⟨Receiver.law_started _ _, h.2⟩

/-- R162: a frame is held only in a free buffer. -/
theorem Li.law.holdFrame {l : Li} (h : l.law) (f : Frame) : (l.holdFrame f).law := by
  obtain ⟨hreceiver, hheld, hplaces⟩ := h
  unfold Li.holdFrame
  split
  · rename_i hfree
    refine ⟨hreceiver, ?_, hplaces⟩
    simp only [List.length_append, List.length_singleton]
    exact hfree
  · exact ⟨hreceiver, hheld, hplaces⟩

/-- R158: the run of unmarked characters is HUNTING's own. -/
theorem Receiver.law.withRun {r : Receiver} (h : r.law) (ha : r.assembling = false) (b : Bool) :
    ({ r with unmarkedRun := b } : Receiver).law := by
  refine ⟨fun _ => h.1 ha, fun h' => ?_⟩
  rw [show ({ r with unmarkedRun := b } : Receiver).assembling = r.assembling from rfl, ha] at h'
  cases h'

theorem Li.law.hunt {l : Li} (h : l.law) (ha : l.receiver.assembling = false) (now : Nat) (c : Character) :
    (l.hunt now c).law := by
  unfold Li.hunt
  split
  · exact h
  · split
    · split
      · exact h.startFrame now c
      · exact ⟨h.1.withRun ha false, h.2⟩
    · split
      · exact h
      · exact ⟨h.1.withRun ha true, h.2⟩

theorem payloadLength_append {buffer : List Byte} (h : 2 ≤ buffer.length) (b : Byte) :
    Receiver.payloadLength (buffer ++ [b]) = Receiver.payloadLength buffer := by
  unfold Receiver.payloadLength
  rw [List.getD_eq_getElem?_getD, List.getD_eq_getElem?_getD, List.getElem?_append_left (show 1 < buffer.length from h)]

/-- R156, R159: a byte that neither ends the frame nor names too long a payload leaves the buffer short of the frame. -/
theorem Receiver.law.takeByte {r : Receiver} (h : r.law) (ha : r.assembling = true) {b : Byte} (t : Nat)
    (hfits : ¬((r.buffer ++ [b]).length = 2 ∧ Config.maxPayload < Receiver.payloadLength (r.buffer ++ [b])))
    (hmore : ¬(2 ≤ (r.buffer ++ [b]).length ∧
      (r.buffer ++ [b]).length = Receiver.payloadLength (r.buffer ++ [b]) + 6)) :
    (Receiver.mk true (r.buffer ++ [b]) false (some t)).law := by
  obtain ⟨-, hlen, -, hshort⟩ := h.2 ha
  refine ⟨nofun, fun _ => ⟨rfl, ?_, rfl, fun h2 => ?_⟩⟩
  · simp
  · dsimp only at h2 ⊢
    by_cases hone : r.buffer.length = 1
    · have htwo : (r.buffer ++ [b]).length = 2 := by simp [hone]
      have hle : Receiver.payloadLength (r.buffer ++ [b]) ≤ Config.maxPayload := by
        exact Nat.not_lt.1 fun hlt => hfits ⟨htwo, hlt⟩
      exact ⟨hle, by omega⟩
    · have htwo : 2 ≤ r.buffer.length := by omega
      obtain ⟨hle, hlt⟩ := hshort htwo
      rw [payloadLength_append htwo] at hmore ⊢
      simp only [List.length_append, List.length_singleton] at hmore ⊢
      exact ⟨hle, by omega⟩

theorem Li.law.takeByte {l : Li} (h : l.law) (ha : l.receiver.assembling = true) (now : Nat) (b : Byte) :
    (l.takeByte now b).law := by
  unfold Li.takeByte
  dsimp only
  split
  · exact h.hunting _
  · split
    · split
      · exact Li.law.holdFrame (h.hunting l.latches) _
      · exact h.hunting _
    · exact ⟨h.1.takeByte ha _ ‹_› ‹_›, h.2⟩

theorem Li.law.assemble {l : Li} (h : l.law) (ha : l.receiver.assembling = true) (now : Nat) (c : Character) :
    (l.assemble now c).law := by
  unfold Li.assemble
  split
  · exact h.hunting _
  · split
    · split
      · exact Li.law.startFrame h now c
      · exact h.hunting _
    · exact h.takeByte ha now c.data

theorem characterReceived_linkLaw {s : State} (c : Character) (h : s.li.law) : (characterReceived c s).li.law := by
  unfold characterReceived
  rw [State.setLi_li]
  split
  · exact h.assemble ‹_› s.now c
  · exact h.hunt (Bool.eq_false_iff.2 ‹_›) s.now c

/-! ## Requests, transmissions and resets -/

theorem linkLaw_of_effect {c : Instr} {s t : State} (h : Effect c s t) (hs : s.li.law) : t.li.law := by
  cases h with
  | setOdometry => exact commitDu_linkLaw _ _ hs
  | presetPosition => exact commitDu_linkLaw _ _ hs
  | setSide => exact linkLaw_sideKept.setSide _ _ _ _ hs
  | @armSide _ x => exact linkLaw_sideKept.supplyFaultCheck _ (linkLaw_sideKept.enterArming x hs)
  | disarmSide => exact linkLaw_sideKept.disarmSide _ hs
  | clearSideFault => exact linkLaw_sideKept.clearSideFault _ hs
  | setChannel =>
    unfold setChannel
    dsimp only
    split
    · exact linkLaw_innerKept.record _ _ hs
    · exact hs
  | swapNow => exact swapPlans_linkLaw hs
  | startRun => exact Li.law.placeRunstate hs _ _ _
  | stopRun => exact linkLaw_innerKept.beginStop _ hs
  | _ => exact hs

theorem linkLaw_of_taking {c : Instr} {s t : State} (h : Taking c s t) (hs : s.li.law) : t.li.law := by
  obtain ⟨a, -, effect⟩ := h
  obtain ⟨hreceiver, hheld, hplaces⟩ := hs
  have hbody := linkLaw_of_effect effect
    ⟨hreceiver, Nat.le_trans (by simp [dropFrame]) hheld, hplaces⟩
  exact hbody

theorem Sent.law {l m : Li} (h : Sent l m) (hl : l.law) : m.law := by
  obtain ⟨hreceiver, hheld, hflaw, hgap⟩ := hl
  refine ⟨h.receiver ▸ hreceiver, h.held ▸ hheld, ?_, fun x p hp => ?_⟩
  · rcases h.flaw with e | ⟨p, e⟩
    · rw [e]; exact hflaw
    · rw [e, List.length_cons] at hflaw
      exact Nat.le_of_succ_le hflaw
  · rcases h.gap x with e | e
    · exact hgap x p (e ▸ hp)
    · rw [e] at hp; cases hp

theorem linkLaw_of_sending {s t : State} (h : Sending s t) (hs : s.li.law) : t.li.law := by
  cases h with
  | nothing => exact hs
  | frame sent => exact sent.law hs
  | motion sent => exact sent.law hs
  | @flaw l sent => exact linkLaw_innerKept.drainEndTest (linkLaw_innerKept.release (s := s.setLi l) (sent.law hs))

/-- R169, R182: the places are emptied, and the receiver and the held frames kept. -/
theorem runCleared_linkLaw {s : State} (hs : s.li.law) : (runCleared s).li.law := by
  obtain ⟨hreceiver, hheld, -, -⟩ := hs
  refine ⟨hreceiver, hheld, Nat.zero_le _, fun x p hp => ?_⟩
  cases x <;> cases hp

theorem runReset_linkLaw {s : State} (hs : s.li.law) : (runReset s).li.law := by
  unfold runReset
  dsimp only
  rw [State.setRc_li]
  exact linkLaw_innerKept.runstate _ _ (linkLaw_innerKept.records (runCleared_linkLaw hs))

theorem resetRunActs_linkLaw {s : State} (hs : s.li.law) : (resetRunActs s).li.law := by
  rw [resetRunActs_eq]
  rcases takeOldest_cases (runReset s) with h | ⟨c, h⟩
  · rw [h]; exact runReset_linkLaw hs
  · exact linkLaw_of_taking h (runReset_linkLaw hs)

theorem Li.law_reset (rate : LinkRate) (holdIn : Bool) : (Li.reset rate holdIn).law := by
  refine ⟨Receiver.law_hunting, by simp [Li.reset], by simp [Li.reset], fun x p hp => ?_⟩
  cases x <;> cases hp

theorem resetFullActs_linkLaw (s : State) : (resetFullActs s).li.law :=
  Li.law.placeRunstate (l := s.li.resetFull) (Li.law_reset s.li.rate s.li.holdIn) _ _ _

theorem linkLaw_of_event {c : Instr} {s t : State} (h : Event c s t) (hs : s.li.law) : t.li.law := by
  cases h with
  | @forwardCount _ _ first =>
    unfold forwardCount
    dsimp only
    split
    · exact commitDu_linkLaw _ _ hs
    · split
      · split
        · exact linkLaw_innerKept.fireBoundary (fun _ _ h => h)
            (fun u z h => trackerBoundary_linkLaw z h) first _
            (commitDu_linkLaw _ _ hs)
        · exact commitDu_linkLaw _ _ hs
      · exact linkLaw_innerKept.beginStop _ (commitDu_linkLaw _ _ hs)
  | reverseCount =>
    unfold reverseCount
    dsimp only
    split
    · exact commitDu_linkLaw _ _ hs
    · split <;> exact commitDu_linkLaw _ _ hs
  | illegalTransition => exact commitDu_linkLaw _ _ hs
  | standstillTimerExpiry =>
    unfold standstillExpiry
    split
    · exact hs
    · exact commitDu_linkLaw _ _ hs
  | debounceExpiry => exact linkLaw_sideKept.debounceExpiry _ hs
  | hvrdyArrival => exact linkLaw_sideKept.hvrdyArrival _ hs
  | hvfltAsserted => exact linkLaw_sideKept.hvfltChange _ _ hs
  | rampTimerExpiry => exact linkLaw_sideKept.rampExpiry _ hs
  | planSwapAtBoundary => exact linkLaw_innerKept.planSwapAtBoundary hs
  | channelRecordTakesEffect =>
    split
    · exact linkLaw_innerKept.record _ _ hs
    · exact hs
  | shotCompletion =>
    exact completeShot_keeps (P := fun u => u.li.law) (fun _ _ h => h)
      (fun _ y ch l h => linkLaw_sideKept.loadFault y ch l h)
      (fun _ y ch good h => linkLaw_innerKept.couplingResult y ch good (fun _ => h))
      (fun _ y due g h => linkLaw_innerKept.reachShots y due h) _ _ _ hs
  | stepEvaluation => exact linkLaw_innerKept.drainTest (linkLaw_innerKept.step _ hs)
  | clusterRelease => exact linkLaw_innerKept.drainEndTest (linkLaw_frontKept _ _ hs)
  | drainReleasePhase => exact linkLaw_innerKept.drainTest hs
  | drainEnd => exact linkLaw_innerKept.drainEndTest hs
  | characterReceived => exact characterReceived_linkLaw _ hs
  | idleTimerExpiry =>
    unfold idleExpiry
    split
    · exact hs
    · exact hs.hunting _
  | holdInRelease => exact linkLaw_of_sending (transmissionStart_cases _) hs
  | transmissionStart => exact linkLaw_of_sending (transmissionStart_cases s) hs
  | transmissionEnd =>
    unfold transmissionEnd
    split <;> exact hs
  | resetRunActs => exact actAwaited_keeps (P := fun u => u.li.law) hs (resetRunActs_linkLaw hs)
  | resetFullActs => exact actAwaited_keeps (P := fun u => u.li.law) hs (resetFullActs_linkLaw s)
  | _ => exact hs

/-- Settles O59: the bounds are kept by every request and event, since the receiver, the held frames, the GAP slots and
the flaw queue are each changed within them. -/
theorem linkLawKept : Obligations.LinkLawKept := by
  intro s t hs h
  exact step_keeps (P := fun u => u.li.law) (fun u c rest hu => (u.started_li c rest).symm ▸ hu)
    (fun pins _ => Li.law_reset (LinkRate.ofStraps pins.rate1 pins.rate0) (!pins.holdIn))
    (fun _ _ _ _ hu ht => linkLaw_of_taking ht hu) (fun _ _ _ _ hu he => linkLaw_of_event he hu) hs h

end Sys2Proof.Machine

/-!
The queue (log 19): what every command leaves of it, and the state right after reset with the laws of the device.
-/
namespace Sys2Proof.Machine

/-! ## The queue -/

/-- Settles O1: both clauses are the two branches of `step`. -/
theorem stepRunsFrontCommand : Obligations.StepRunsFrontCommand := by
  refine ⟨fun c rest s hqueue => ?front, fun s hqueue => ?empty⟩
  case front => unfold step; rw [hqueue]
  case empty => unfold step; rw [hqueue]

/-- The queue is `q`. -/
def State.queueIs (q : List Instr) (s : State) : Prop := s.pending = q

theorem queueIs_of_internal {q : List Instr} {s t : State} (h : Internal s t) (hs : s.queueIs q) : t.queueIs q :=
  h.pending.trans hs

theorem queueIs_sideKept (q : List Instr) : SideKept (State.queueIs q) :=
  .ofInternal (fun _ _ => queueIs_of_internal) (fun s x g h => (State.modifySc_pending s x g).trans h)
    (fun s n h => (State.advanceTo_pending s n).trans h)

@[simp] theorem commitDu_pending (latch : MotionCauses) (d : Du) (s : State) :
    (commitDu latch d s).pending = s.pending := by
  obtain ⟨l, heq, -⟩ := commitDu_frame latch d s
  rw [heq]

theorem queueIs_of_effect {q : List Instr} {c : Instr} {s t : State} (h : Effect c s t) (hs : s.queueIs q) :
    t.queueIs q := by
  cases h with
  | setOdometry => exact (commitDu_pending _ _ s).trans hs
  | presetPosition => exact (commitDu_pending _ _ s).trans hs
  | setSide => exact (queueIs_sideKept q).setSide _ _ _ _ hs
  | @armSide _ x => exact (queueIs_sideKept q).supplyFaultCheck _ ((queueIs_sideKept q).enterArming x hs)
  | disarmSide => exact (queueIs_sideKept q).disarmSide _ hs
  | clearSideFault => exact (queueIs_sideKept q).clearSideFault _ hs
  | @setChannel _ x ch r =>
    have hset := (queueIs_sideKept q).modify x
      (fun sc => { sc with pendingRecords := sc.pendingRecords.set ch (some r) }) (fun _ => rfl) hs
    unfold setChannel
    dsimp only
    split
    · exact queueIs_of_internal (recordTakesEffect_internal x _ ch) hset
    · exact hset
  | swapNow => exact queueIs_of_internal (swapPlans_internal s) hs
  | startRun => exact queueIs_of_internal (placeRunstate_internal _ _ _) (by exact hs)
  | stopRun => exact queueIs_of_internal (beginStop_internal _ s) hs
  | _ => exact hs

theorem queueIs_of_taking {q : List Instr} {c : Instr} {s t : State} (h : Taking c s t) (hs : s.queueIs q) :
    t.queueIs q := by
  obtain ⟨a, -, effect⟩ := h
  have hbody := queueIs_of_effect effect (show (dropFrame s).queueIs q from hs)
  exact hbody

theorem queueIs_of_sending {q : List Instr} {s t : State} (h : Sending s t) (hs : s.queueIs q) : t.queueIs q := by
  cases h with
  | nothing => exact hs
  | frame => exact hs
  | motion => exact hs
  | @flaw l =>
    exact queueIs_of_internal (drainEndTest_internal _) (queueIs_of_internal (releaseClusters_internal (s.setLi l)) hs)

theorem resetRunActs_queueIs {q : List Instr} {s : State} (hs : s.queueIs q) : (resetRunActs s).queueIs q := by
  have hreset : (runReset s).queueIs q := runReset_keeps (P := State.queueIs q) (fun _ _ => queueIs_of_internal)
    (fun u r h => (State.setRc_pending u r).trans h) hs
  rw [resetRunActs_eq]
  rcases takeOldest_cases (runReset s) with h | ⟨c, h⟩
  · rw [h]; exact hreset
  · exact queueIs_of_taking h hreset

theorem resetFullActs_queueIs {q : List Instr} {s : State} (hs : s.queueIs q) : (resetFullActs s).queueIs q := by
  refine queueIs_of_internal (placeRunstate_internal _ _ _) ?_
  exact hs

theorem queueIs_of_event {q : List Instr} {c : Instr} {s t : State} (h : Event c s t) (hs : s.queueIs q) :
    t.queueIs q := by
  have hcommit : ∀ latch d, (commitDu latch d s).queueIs q := fun latch d => (commitDu_pending latch d s).trans hs
  cases h with
  | forwardCount =>
    unfold forwardCount
    dsimp only
    split
    · exact hcommit _ _
    · split
      · split
        · exact fireBoundary_keeps (P := State.queueIs q) (fun _ _ => queueIs_of_internal)
            (fun u b h => (State.setBoundary_pending u b).trans h) (fun u _ h => (State.setIt_pending u _).trans h)
            _ _ (hcommit _ _)
        · exact hcommit _ _
      · exact queueIs_of_internal (beginStop_internal _ _) (hcommit _ _)
  | reverseCount =>
    unfold reverseCount
    dsimp only
    split
    · exact hcommit _ _
    · split <;> exact hcommit _ _
  | illegalTransition => exact hcommit _ _
  | standstillTimerExpiry =>
    unfold standstillExpiry
    split
    · exact hs
    · exact (commitDu_pending _ _ _).trans hs
  | debounceExpiry => exact (queueIs_sideKept q).debounceExpiry _ hs
  | hvrdyArrival => exact (queueIs_sideKept q).hvrdyArrival _ hs
  | hvfltAsserted => exact (queueIs_sideKept q).hvfltChange _ _ hs
  | rampTimerExpiry => exact (queueIs_sideKept q).rampExpiry _ hs
  | planSwapAtBoundary => exact queueIs_of_internal (planSwapAtBoundary_internal s) hs
  | channelRecordTakesEffect =>
    split
    · exact queueIs_of_internal (recordTakesEffect_internal _ s _) hs
    · exact hs
  | shotCompletion =>
    exact completeShot_keeps (P := State.queueIs q) (fun _ n h => (queueIs_sideKept q).waits n h)
      (fun _ y ch l h => (queueIs_sideKept q).loadFault y ch l h)
      (fun _ y ch good h => queueIs_of_internal (couplingResult_internal y ch good _) h)
      (fun u y due g h => queueIs_of_internal (reachShots_internal y due (u.modifyFiring y g)) h) _ _ _ hs
  | stepEvaluation =>
    exact queueIs_of_internal (drainTest_internal _) (queueIs_of_internal (stepEvaluation_internal _ s) hs)
  | clusterRelease =>
    exact queueIs_of_internal (drainEndTest_internal (s.setTrack (s.track.releaseFront s.du.hwm))) hs
  | drainReleasePhase => exact queueIs_of_internal (drainTest_internal s) hs
  | drainEnd => exact queueIs_of_internal (drainEndTest_internal s) hs
  | idleTimerExpiry =>
    unfold idleExpiry
    split <;> exact hs
  | holdInRelease => exact queueIs_of_sending (transmissionStart_cases _) hs
  | transmissionStart => exact queueIs_of_sending (transmissionStart_cases s) hs
  | transmissionEnd =>
    unfold transmissionEnd
    split <;> exact hs
  | resetRunActs => exact actAwaited_keeps (P := State.queueIs q) hs (resetRunActs_queueIs hs)
  | resetFullActs => exact actAwaited_keeps (P := State.queueIs q) hs (resetFullActs_queueIs hs)
  | _ => exact hs

theorem LiveStep.pending {c : Instr} {s t : State} (h : LiveStep c s t) : t.pending = s.pending := by
  cases h with
  | idle => rfl
  | taking h => exact queueIs_of_taking h rfl
  | event h => exact queueIs_of_event h rfl

/-- Settles O2: a command on a live state has a live step, and while RESET_N is low it lets time pass or is the release. -/
theorem everyCommandAnswersNext : Obligations.EveryCommandAnswersNext := by
  intro c s
  cases hlow : s.pinReset with
  | false =>
    obtain ⟨t, hexec, hstep⟩ := exec_live c hlow
    exact ⟨t, hexec, hstep.pending⟩
  | true =>
    by_cases hc : ∀ after pins, c ≠ .pinResetRelease after pins
    · exact ⟨_, exec_held hlow hc, rfl⟩
    · simp only [ne_eq, Classical.not_forall, Classical.not_not] at hc
      obtain ⟨after, pins, rfl⟩ := hc
      exact ⟨_, exec_release hlow after pins, rfl⟩

/-! ## Reset -/

theorem freeTable_get (i : Fin 64) : (Vector.replicate 64 TableEntry.free)[i] = .free := by simp

theorem ShotList.law_reset (sc : Sc) : ShotList.reset.law sc :=
  ⟨Nat.zero_le _, rfl, fun _ h => nomatch h⟩

theorem plansCurrent_reset {s : State} (h : s.ps = Ps.reset) : plansCurrent s := by
  intro x
  rw [h]
  cases x <;> exact ⟨ShotList.law_reset _, ShotList.law_reset _⟩

theorem couplingLaw_reset {s : State} (hps : s.ps = Ps.reset) (hcs : s.cs = ⟨Cs.reset, Cs.reset⟩) :
    couplingLaw s := by
  intro x
  rw [hps, hcs]
  cases x <;> refine ⟨by decide, fun ch => ?_⟩ <;> simp [Cs.reset, PerSide.get]

theorem keysUnique_free {t : It} (h : ∀ i : Fin 64, t.table[i] = .free) : keysUnique t := by
  intro i j a b m n hi
  rw [h i] at hi
  cases hi

theorem TableEntry.inUse_eq_false {e : TableEntry} : e.inUse = false ↔ e = .free := by
  cases e <;> simp [TableEntry.inUse, TableEntry.side?]

theorem It.empty_iff {t : It} : t.empty = true ↔ ∀ i : Fin 64, t.table[i] = .free := by
  simp only [It.empty, List.all_eq_true, Bool.not_eq_true', TableEntry.inUse_eq_false]
  exact ⟨fun h i => h i (mem_allEntries i), fun h i _ => h i⟩

theorem It.usedBy_free {t : It} (h : ∀ i : Fin 64, t.table[i] = .free) (x : Side) : t.usedBy x = 0 := by
  unfold It.usedBy It.count
  refine List.countP_eq_zero.2 fun i _ => ?_
  rw [h i]
  simp [TableEntry.side?]

theorem capLaw_free {t : It} (h : ∀ i : Fin 64, t.table[i] = .free) : capLaw t := fun x => by
  rw [It.usedBy_free h x]
  exact Nat.zero_le _

theorem clusterLaw_free {t : It} (h : ∀ i : Fin 64, t.table[i] = .free) : clusterLaw t := by
  refine ⟨fun i a m hi => ?_, fun i j a b m n hi => ?_, fun i a o c hi => ?_⟩ <;> rw [h i] at hi <;> cases hi

theorem Tracking.law_reset : Tracking.reset.law := by
  refine ⟨by decide, by decide, by decide, by decide, by decide, by decide, fun x => ?_⟩
  cases x <;> decide

/-- The law of an empty Indication Table is that of its settings. -/
theorem trackerLaw_free {s : State} (h : ∀ i : Fin 64, s.it.table[i] = .free) (hg : s.it.settings.law) :
    trackerLaw s := by
  refine fun _ => ⟨hg, capLaw_free h, clusterLaw_free h, fun i a m hi => ?_, fun i a n hi => ?_⟩ <;>
    rw [h i] at hi <;> cases hi

/-- With both engines IDLE, no step awaiting and no entry in use, no step can be evaluated twice. -/
theorem evaluationLaw_quiet {s : State} (hb : s.boundary = none) (hse : s.se = ⟨Se.reset, Se.reset⟩)
    (hv : s.it.verdicts = ⟨[], []⟩) (hrun : s.rc.run = .idle) : evaluationLaw s := by
  refine fun _ => ⟨hb, fun x => ?_, fun h => absurd (hrun.symm.trans h) nofun⟩
  rw [hse]
  cases x <;> refine ⟨rfl, fun _ => ?_, fun _ h => nomatch h⟩ <;> simp [State.awaiting, hv]

theorem runLaw_quiet {s : State} (hse : s.se = ⟨Se.reset, Se.reset⟩) (ht : ∀ i : Fin 64, s.it.table[i] = .free)
    (hgr : s.gr = ⟨Gr.reset, Gr.reset⟩) (hswap : s.ps.swapPending = false) (hdrain : s.rc.drain = .none) :
    runLaw s := by
  refine ⟨fun _ => ⟨?_, It.empty_iff.2 ht, ?_, ?_, hswap⟩, fun _ => hdrain⟩
  · rw [enginesIdle, hse]; rfl
  · rw [hgr]; rfl
  · rw [hgr]; rfl

/-- Settles O3: the reset state has an empty plan, empty tables and IDLE engines, of which each law is a lemma; the rest are
the definitions written out. -/
theorem resetKeepsLaws : Obligations.ResetKeepsLaws := by
  refine ⟨⟨Du.law_reset _, fun x => ?side, plansCurrent_reset rfl, couplingLaw_reset rfl rfl,
    keysUnique_free freeTable_get, Li.law_reset _ _, runLaw_quiet rfl freeTable_get rfl rfl rfl,
    evaluationLaw_quiet rfl rfl rfl rfl, trackerLaw_free freeTable_get Tracking.law_reset⟩,
    fun _ => rfl, fun _ _ _ => rfl, rfl, rfl, rfl, rfl⟩
  case side => cases x <;> exact Sc.law_reset false false false

end Sys2Proof.Machine

/-!
The Distance Unit's commands (R1 to R16): what each count, expiry and request does, and the MOTION trigger.
-/
namespace Sys2Proof.Machine

/-! ## Commands on a live state -/

theorem next_whenLive {s : State} (h : live s) (f : State → State) :
    (Host.Outcome.next (s.whenLive f) : Host.Outcome State Fault Refusal) = .next (f s) :=
  congrArg Host.Outcome.next (State.whenLive_live s f h)

theorem next_after {s : State} (h : live s) (after : Nat) (f : State → State) :
    (Host.Outcome.next ((s.advance after).whenLive f) : Host.Outcome State Fault Refusal) =
      .next (f (s.advance after)) :=
  congrArg Host.Outcome.next (State.whenLive_advance s after f h)

/-- A command that changes nothing on a live state changes nothing at all. -/
theorem next_fixed {s : State} {f : State → State} (h : f s = s) :
    (Host.Outcome.next (s.whenLive f) : Host.Outcome State Fault Refusal) = .next s := by
  unfold State.whenLive
  rw [h, ite_self]

/-! ## The latches that a pending MOTION report shows -/

theorem showsRangeEnd_not (l : Li) : (!l.showsRangeEnd) = match l.motion with
    | none => true
    | some p => !p.report.rangeEnd := by
  unfold Li.showsRangeEnd
  cases l.motion <;> rfl

theorem showsEncoderError_not (l : Li) : (!l.showsEncoderError) = match l.motion with
    | none => true
    | some p => !p.report.encoderError := by
  unfold Li.showsEncoderError
  cases l.motion <;> rfl

/-! ## Forward counts -/

section Forward
variable {s : State} {first : Side}

theorem forwardCount_within (h : s.du.pos + 1 < s.du.stepLength s.du.step) : forwardCount first s =
    commitDu noLatch
      { s.du with
        lastPair := s.du.forwardPair
        standstill := some (s.now + s.du.timeout * 20000)
        pos := s.du.pos + 1
        motion := if s.du.step < s.du.hwm then .returning else .forward } s := by
  unfold forwardCount
  dsimp only
  rw [if_pos h]
  rfl

/-- R4, R12, R13: what a forward boundary leaves of the Distance Unit. -/
theorem Du.forwardBoundary_eq (d : Du) (hwm : Int) (now planTime : Nat) (pair : EncoderPair) :
    (d.takeCount pair now).forwardBoundary hwm now planTime =
      { d with
        lastPair := pair
        standstill := some (now + d.timeout * 20000)
        step := d.step + 1
        pos := 0
        hwm := hwm
        reference := some now
        period := match d.reference with
          | none => d.period
          | some r => some (min 16777215 (max 1 ((now - r) / 20)))
        fast := fastOf (match d.reference with
          | none => d.period
          | some r => some (min 16777215 (max 1 ((now - r) / 20)))) planTime
        motion := if d.step + 1 < hwm then .returning else .forward } := rfl

theorem forwardCount_boundary (hend : s.du.stepLength s.du.step ≤ s.du.pos + 1) (hstep : s.du.step < 2147483647)
    (hfire : ¬(s.rc.run = .running ∧ s.du.hwm < s.du.step + 1)) : forwardCount first s =
    commitDu noLatch ((s.du.takeCount s.du.forwardPair s.now).forwardBoundary s.du.hwm s.now
      s.ps.active.longerPlanTime) s := by
  have hnot : ¬ isFireBoundary s (s.du.step + 1) = true := by simpa [isFireBoundary] using hfire
  unfold forwardCount
  dsimp only
  rw [if_neg (Nat.not_lt.2 hend), if_pos (show s.du.step < Config.maxStep from hstep), if_neg hnot]

theorem forwardCount_fires (hend : s.du.stepLength s.du.step ≤ s.du.pos + 1) (hstep : s.du.step < 2147483647)
    (hrun : s.rc.run = .running) (hmark : s.du.hwm < s.du.step + 1) : forwardCount first s =
    fireBoundary first (s.du.step + 1) (commitDu noLatch
      ((s.du.takeCount s.du.forwardPair s.now).forwardBoundary (s.du.step + 1) s.now s.ps.active.longerPlanTime) s) := by
  have hfire : isFireBoundary s (s.du.step + 1) = true := by simp [isFireBoundary, hrun, hmark]
  unfold forwardCount
  dsimp only
  rw [if_neg (Nat.not_lt.2 hend), if_pos (show s.du.step < Config.maxStep from hstep), if_pos hfire]

theorem forwardCount_rangeEnd (hend : s.du.stepLength s.du.step ≤ s.du.pos + 1) (hstep : s.du.step = 2147483647) :
    forwardCount first s = beginStop .rangeEnd (commitDu ⟨false, false, false, match s.li.motion with
        | none => true
        | some p => !p.report.rangeEnd⟩
      { s.du with
        lastPair := s.du.forwardPair
        standstill := some (s.now + s.du.timeout * 20000)
        motion := if s.du.step < s.du.hwm then .returning else .forward
        rangeEnd := true } s) := by
  have hlast : ¬ s.du.step < Config.maxStep := by rw [hstep]; decide
  unfold forwardCount
  dsimp only
  rw [if_neg (Nat.not_lt.2 hend), if_neg hlast, showsRangeEnd_not]
  rfl

end Forward

/-! ## The MOTION trigger and the table of directions -/

theorem noLatch_union (latch : MotionCauses) (m f : Bool) : latch.union ⟨m, f, false, false⟩ =
    ⟨latch.state || m, latch.fast || f, latch.encoderError, latch.rangeEnd⟩ := by
  simp [MotionCauses.union]

theorem commitDu_empty {latch : MotionCauses} {d : Du} {s : State} {c : MotionCauses}
    (hc : latch.union ⟨d.motion ≠ s.du.motion, d.fast ≠ s.du.fast, false, false⟩ = c)
    (hne : c ≠ ⟨false, false, false, false⟩) (hslot : s.li.motion = none) : commitDu latch d s =
    { s with
      du := d
      li := { s.li with
        motion := some ⟨s.li.ordinal,
          ⟨c, d.step, d.hwm, d.period, d.motion, d.fast, d.encoderError, d.rangeEnd⟩⟩
        ordinal := s.li.ordinal + 1 } } := by
  have hany : c.any = true := by
    cases hc' : c.any with
    | true => rfl
    | false => exact absurd (MotionCauses.any_eq_false.1 hc') hne
  rw [commitDu_trigger (by rw [hc]; exact hany), hc, Li.placeMotion, hslot]
  rfl

theorem commitDu_pendingReport {latch : MotionCauses} {d : Du} {s : State} {c : MotionCauses}
    {p : Pending MotionReport}
    (hc : latch.union ⟨d.motion ≠ s.du.motion, d.fast ≠ s.du.fast, false, false⟩ = c)
    (hne : c ≠ ⟨false, false, false, false⟩) (hslot : s.li.motion = some p) : commitDu latch d s =
    { s with
      du := d
      li := { s.li with motion := some ⟨p.ordinal,
        ⟨p.report.causes.union c, d.step, d.hwm, d.period, d.motion, d.fast, d.encoderError, d.rangeEnd⟩⟩ } } := by
  have hany : c.any = true := by
    cases hc' : c.any with
    | true => rfl
    | false => exact absurd (MotionCauses.any_eq_false.1 hc') hne
  rw [commitDu_trigger (by rw [hc]; exact hany), hc, Li.placeMotion, hslot]
  rfl

/-- R1, R2: what a sense makes of each change from a pair. -/
theorem decodeEncoder_directions (pair : EncoderPair) :
    (decodeEncoder .normal pair pair.next = .forward ∧ decodeEncoder .normal pair pair.previous = .reverse) ∧
    (decodeEncoder .swapped pair pair.next = .reverse ∧ decodeEncoder .swapped pair pair.previous = .forward) ∧
    ∀ sense, decodeEncoder sense pair ⟨!pair.ea, !pair.eb⟩ = .illegal ∧ decodeEncoder sense pair pair = .none := by
  rcases pair with ⟨_ | _, _ | _⟩ <;>
    exact ⟨⟨rfl, rfl⟩, ⟨rfl, rfl⟩, fun sense => by cases sense <;> exact ⟨rfl, rfl⟩⟩

/-- Settles O5: the two branches of a forward count off a fire boundary, the MOTION trigger by its slot, and the table of
directions. -/
theorem forwardCountOffFire : Obligations.ForwardCountOffFire := by
  refine ⟨fun s after first hlive => ⟨fun hwithin => ?within, fun hend hstep hfire => ?boundary⟩,
    fun latch d s => ?trigger, ?table, fun d => ?pairs, fun period plan => ?fast, rfl⟩
  case within =>
    exact (next_after hlive after (forwardCount first)).trans
      (congrArg Host.Outcome.next (forwardCount_within (s := s.advance after) hwithin))
  case boundary =>
    refine (next_after hlive after (forwardCount first)).trans
      (congrArg Host.Outcome.next (forwardCount_boundary (s := s.advance after) hend hstep hfire))
  case trigger =>
    have hc := noLatch_union latch (decide (d.motion ≠ s.du.motion)) (decide (d.fast ≠ s.du.fast))
    refine ⟨fun hquiet => commitDu_quiet ?_, fun hne hslot => commitDu_empty hc hne hslot,
      fun p hne hslot => commitDu_pendingReport hc hne hslot⟩
    rw [hc]
    exact MotionCauses.any_eq_false.2 hquiet
  case table => decide
  case pairs =>
    obtain ⟨⟨hnf, hnr⟩, ⟨hsr, hsf⟩, hsame⟩ := decodeEncoder_directions d.lastPair
    obtain ⟨hillegal, hnone⟩ := hsame d.sense
    unfold Du.forwardPair Du.reversePair
    cases hsense : d.sense with
    | normal => rw [hsense] at hillegal hnone; exact ⟨hnf, hnr, hillegal, hnone⟩
    | swapped => rw [hsense] at hillegal hnone; exact ⟨hsf, hsr, hillegal, hnone⟩
  case fast => cases period <;> rfl

/-! ## The run state during the work of a boundary -/

@[simp] theorem placeRunstate_rc (c : RunCauses) (w : Option (Int × SwapPlace)) (s : State) :
    (placeRunstate c w s).rc = s.rc := State.setLi_rc s _

@[simp] theorem releaseClusters_rc (s : State) : (releaseClusters s).rc = s.rc := State.setTrack_rc s _

@[simp] theorem commitDu_rc (latch : MotionCauses) (d : Du) (s : State) : (commitDu latch d s).rc = s.rc := by
  obtain ⟨l, heq, -⟩ := commitDu_frame latch d s
  rw [heq]

@[simp] theorem swapPlans_rc (s : State) : (swapPlans s).rc = s.rc := by
  obtain ⟨b, c, l, heq, -⟩ := swapPlans_frame s
  rw [heq]

@[simp] theorem recordTakesEffect_rc (x : Side) (s : State) (ch : Channel) : (recordTakesEffect x s ch).rc = s.rc := by
  unfold recordTakesEffect
  split <;> rfl

@[simp] theorem recordsTakeEffect_rc (s : State) : (recordsTakeEffect s).rc = s.rc := by
  obtain ⟨v, c, heq, -⟩ := recordsTakeEffect_frame s
  rw [heq]

@[simp] theorem planSwapAtBoundary_rc (s : State) : (planSwapAtBoundary s).rc = s.rc := by
  unfold planSwapAtBoundary
  split
  · rfl
  · split
    · rw [placeRunstate_rc, State.setTrack_rc, swapPlans_rc]
    · rfl

@[simp] theorem trackerBoundary_rc (z : Int) (s : State) : (trackerBoundary z s).rc = s.rc := by
  unfold trackerBoundary
  rw [releaseClusters_rc, State.setIt_rc]

@[simp] theorem stepEvaluation_rc (x : Side) (s : State) : (stepEvaluation x s).rc = s.rc := by
  unfold stepEvaluation
  split
  · rfl
  · dsimp only
    rw [State.setSe_rc, State.setRecorder_rc, State.setTrack_rc]

@[simp] theorem evaluateTimes_rc (x : Side) : ∀ (n : Nat) (s : State), (evaluateTimes x n s).rc = s.rc
  | 0, _ => rfl
  | n + 1, s => (evaluateTimes_rc x n _).trans (stepEvaluation_rc x s)

/-- R178: outside STOPPING the end of an evaluation ends no phase of a drain. -/
theorem evaluateFinished_eq {s : State} (h : s.rc.run ≠ .stopping) (x : Side) :
    evaluateFinished x s = evaluateTimes x (s.se.get x).finished.length s := by
  unfold evaluateFinished
  exact drainTest_waits (.inl (by rwa [evaluateTimes_rc]))

theorem evaluateFinished_rc {s : State} (h : s.rc.run ≠ .stopping) (x : Side) : (evaluateFinished x s).rc = s.rc := by
  rw [evaluateFinished_eq h, evaluateTimes_rc]

theorem endOfList_rc {s : State} (h : s.rc.run ≠ .stopping) (x : Side) : (endOfList x s).rc = s.rc := by
  unfold endOfList
  split
  · rfl
  · rw [evaluateFinished_rc (by exact h), State.setSe_rc]

theorem reachShots_rc (x : Side) : ∀ (due : List Nat) {s : State}, s.rc.run ≠ .stopping →
    (reachShots x due s).rc = s.rc
  | [], _, h => endOfList_rc h x
  | i :: due, s, h => by
    have hnext : ∀ g, (reachShots x due (s.modifyFiring x g)).rc = s.rc := fun g => reachShots_rc x due (by exact h)
    unfold reachShots
    split
    · exact hnext _
    · split
      · exact hnext _
      · split
        · rfl
        · exact hnext _

theorem engineBoundary_rc {s : State} (h : s.rc.run ≠ .stopping) (x : Side) (z : Int) :
    (engineBoundary x z s).rc = s.rc := by
  unfold engineBoundary
  dsimp only
  split
  · rfl
  · split
    · rw [evaluateFinished_rc (by exact h), State.setSe_rc]
    · rw [reachShots_rc x _ (by exact h), State.setSe_rc]

theorem fireBoundary_rc {s : State} (h : s.rc.run ≠ .stopping) (first : Side) (z : Int) :
    (fireBoundary first z s).rc = s.rc := by
  unfold fireBoundary
  dsimp only
  have hbefore : (trackerBoundary z (recordsTakeEffect (planSwapAtBoundary (s.setBoundary (some z))))).rc = s.rc := by
    simp
  generalize trackerBoundary z (recordsTakeEffect (planSwapAtBoundary (s.setBoundary (some z)))) = u at hbefore ⊢
  have hu : u.rc.run ≠ .stopping := hbefore ▸ h
  have hfirst := engineBoundary_rc hu first z
  rw [State.setBoundary_rc, engineBoundary_rc (hfirst ▸ hu), hfirst, hbefore]

/-! ## Fire boundaries and range ends -/

/-- The counts that a boundary's work leaves as they are. -/
def State.stands (step hwm : Int) (pos : Nat) (s : State) : Prop :=
  s.du.step = step ∧ s.du.hwm = hwm ∧ s.du.pos = pos

theorem stands_of_internal {step hwm : Int} {pos : Nat} {s t : State} (h : Internal s t)
    (hs : s.stands step hwm pos) : t.stands step hwm pos := by
  obtain ⟨b, hdu, -⟩ := h.du
  unfold State.stands
  rw [hdu]
  exact hs

theorem fireBoundary_stands {step hwm : Int} {pos : Nat} {s : State} (first : Side) (z : Int)
    (hs : s.stands step hwm pos) : (fireBoundary first z s).stands step hwm pos :=
  fireBoundary_keeps (P := State.stands step hwm pos) (fun _ _ => stands_of_internal)
    (fun u b h => by unfold State.stands; rw [State.setBoundary_du]; exact h)
    (fun u _ h => by unfold State.stands; rw [State.setIt_du]; exact h) first z hs

/-- The order of a fire boundary's work (log 8, log 9). -/
theorem fireBoundary_eq (first : Side) (z : Int) (s : State) :
    fireBoundary first z s =
      (let s2 := recordsTakeEffect (planSwapAtBoundary (s.setBoundary (some z)))
       let s3 := releaseClusters (s2.setIt ((s2.it.appendVerdicts z).sealDue s2.du.hwm))
       (engineBoundary (otherSide first) z (engineBoundary first z s3)).setBoundary none) := by
  unfold fireBoundary trackerBoundary
  dsimp only

namespace Settled

/-- Settles O6: a forward boundary above the high-water mark in RUNNING is the Distance Unit's own work and then the fire
boundary, which leaves the counts and the run state. -/
theorem fireBoundary : Obligations.FireBoundary := by
  refine ⟨fun s after first hlive hend hstep hrun hmark => ?fires, fun t z => rfl⟩
  case fires =>
    intro z period s1 s2 s3 t
    have hfires : forwardCount first (s.advance after) = Machine.fireBoundary first z s1 := by
      rw [forwardCount_fires (s := s.advance after) hend hstep hrun hmark]
      have hmotion : motionForward (s.du.step + 1) (s.du.step + 1) = .forward := if_neg (Int.lt_irrefl _)
      rw [Du.forwardBoundary_eq]
      simp only [State.advance_du, Int.lt_irrefl, if_false]
      rfl
    have hrc : s1.rc = s.rc := commitDu_rc _ _ _
    have hstands : s1.stands z z 0 := by
      unfold State.stands
      rw [commitDu_du]
      exact ⟨rfl, rfl, rfl⟩
    clear_value s1 z
    have ht : t = Machine.fireBoundary first z s1 := by
      simp only [t, s3, s2, fireBoundary_eq]
    clear_value t
    subst ht
    have hs1 : s1.rc.run ≠ .stopping := by rw [hrc, hrun]; decide
    obtain ⟨h1, h2, h3⟩ := fireBoundary_stands first z hstands
    refine ⟨?_, h1, h2, h3, ?_⟩
    · exact (next_after hlive after (forwardCount first)).trans (congrArg Host.Outcome.next hfires)
    · rw [fireBoundary_rc hs1, hrc]
      exact hrun

end Settled

end Sys2Proof.Machine

/-!
The end of the distance range (R5, R6, R7), illegal transitions and the standstill timer (R2, R11), and the two requests of
the Distance Unit (R15, R16).
-/
namespace Sys2Proof.Machine

/-! ## The run state after the beginning of a stop -/

theorem drainEnd_run (s : State) : (drainEnd s).rc.run = .idle := by
  obtain ⟨_, _, _, _, _, _, _, heq, -⟩ := drainEnd_frame s
  rw [heq]

theorem drainEndTest_run (s : State) : (drainEndTest s).rc.run = .idle ∨ (drainEndTest s).rc.run = s.rc.run := by
  unfold drainEndTest
  split
  · exact .inl (drainEnd_run s)
  · exact .inr rfl

@[simp] theorem forcedRelease_rc (s : State) : (forcedRelease s).rc = s.rc := by
  unfold forcedRelease
  rw [releaseClusters_rc, State.setIt_rc]

/-- RELEASE either ends the drain at once or leaves the run state. -/
theorem releasePhase_run (s : State) : (releasePhase s).rc.run = .idle ∨ (releasePhase s).rc.run = s.rc.run := by
  unfold releasePhase
  dsimp only
  have hkept := drainEndTest_run (forcedRelease ((s.setRc { s.rc with drain := .release }).setTrack
    ((s.setRc { s.rc with drain := .release }).track.closeAll (s.setRc { s.rc with drain := .release }).du.hwm
      markTruncated)))
  rwa [forcedRelease_rc, State.setTrack_rc] at hkept

/-- R176: after the beginning of a stop in RUNNING the device is no longer RUNNING, and the cause is the stop's. -/
theorem beginStop_leaves {cause : StopCause} {s : State} (hrun : s.rc.run = .running) :
    (beginStop cause s).rc.run ≠ .running ∧ (beginStop cause s).rc.cause = cause := by
  rw [beginStop_running hrun]
  dsimp only
  split
  · refine ⟨?_, by rw [releasePhase_cause, placeRunstate_rc]; rfl⟩
    rcases releasePhase_run (placeRunstate causeStop none
      (s.setRc { s.rc with run := .stopping, cause := cause, drain := .lists })) with hidle | hstop
    · rw [hidle]; decide
    · rw [hstop, placeRunstate_rc]; exact fun h => nomatch h
  · rw [placeRunstate_rc]
    exact ⟨(nomatch ·), rfl⟩

/-! ## Range ends -/

/-- Settles O7: at the last step of the range the latch is set, and the count begins a stop. -/
theorem forwardRangeEnd : Obligations.ForwardRangeEnd := by
  intro s after first hlive hend hstep trigger s1
  have hs1 : exec (.forwardCount after first) s = .next (beginStop .rangeEnd s1) :=
    (next_after hlive after (forwardCount first)).trans
      (congrArg Host.Outcome.next (forwardCount_rangeEnd (s := s.advance after) hend hstep))
  have hrc : s1.rc = s.rc := commitDu_rc _ _ _
  refine ⟨fun hrun => ?_, fun hrun => ⟨hs1, beginStop_leaves (hrc ▸ hrun)⟩⟩
  rw [hs1, beginStop_of_ne (hrc ▸ hrun)]

namespace Settled

/-- Settles O8: a reverse count goes back inside the step, over the step's beginning, or meets the end of the range. -/
theorem reverseCount : Obligations.ReverseCount := by
  intro s after hlive d trigger
  have hexec : exec (.reverseCount after) s = .next (Machine.reverseCount (s.advance after)) :=
    next_after hlive after Machine.reverseCount
  rw [hexec]
  refine ⟨fun hpos => ?within, fun hpos hstep => ?boundary, fun hpos hstep => ?rangeEnd⟩
  case within => exact congrArg Host.Outcome.next (if_pos hpos)
  case boundary =>
    have hnot : ¬ 0 < (s.advance after).du.pos := Nat.not_lt.2 (Nat.le_of_eq hpos)
    exact congrArg Host.Outcome.next ((if_neg hnot).trans (if_pos hstep))
  case rangeEnd =>
    have hnot : ¬ 0 < (s.advance after).du.pos := Nat.not_lt.2 (Nat.le_of_eq hpos)
    have hlast : ¬ Config.minStep < (s.advance after).du.step := by
      rw [State.advance_du, hstep]
      decide
    unfold Machine.reverseCount
    dsimp only
    rw [if_neg hnot, if_neg hlast, showsRangeEnd_not]
    rfl

end Settled

/-! ## Illegal transitions and the standstill timer -/

theorem illegalTransition_eq (s : State) : illegalTransition s =
    commitDu ⟨false, false, match s.li.motion with
        | none => true
        | some p => !p.report.encoderError, false⟩
      { s.du with lastPair := ⟨!s.du.lastPair.ea, !s.du.lastPair.eb⟩, encoderError := true } s := by
  unfold illegalTransition
  rw [showsEncoderError_not]
  rfl

theorem standstillExpiry_some {s : State} {t : Nat} (h : s.du.standstill = some t) : standstillExpiry s =
    commitDu noLatch { s.du with
      reference := none
      period := none
      fast := false
      motion := .standstill
      standstill := none } (s.advanceTo t) := by
  unfold standstillExpiry
  rw [h]
  rfl

theorem standstillExpiry_none {s : State} (h : s.du.standstill = none) : standstillExpiry s = s := by
  unfold standstillExpiry
  rw [h]

/-- Settles O9: the transition latches the error, and only a running timer expires. -/
theorem illegalTransitionAndStandstill : Obligations.IllegalTransitionAndStandstill := by
  refine ⟨fun s after hlive => ?transition, fun s t hlive hrun => ?expires, fun s hstopped => ?stopped⟩
  case transition =>
    exact (next_after hlive after illegalTransition).trans
      (congrArg Host.Outcome.next (illegalTransition_eq (s.advance after)))
  case expires =>
    exact (next_whenLive hlive standstillExpiry).trans (congrArg Host.Outcome.next (standstillExpiry_some hrun))
  case stopped => exact next_fixed (standstillExpiry_none hstopped)

/-! ## Requests that the run state or the body answers -/

section Answers
variable {s : State} {f : Frame} {rest : List Frame} {q : RequestForm}

/-- A request of its kind and length that the run state allows is answered by its body. -/
theorem next_answered (h : mayTake s f rest) (hk : f.kind = q.kind) (hn : f.payload.length = q.length)
    (hg : q.gate s.rc.run = none) (hr : q.kind ≠ kindReset) :
    (Host.Outcome.next (s.whenLive (handleRequest q)) : Host.Outcome State Fault Refusal) =
      .next (repliedWith f (q.body f.payload (taken rest s))) :=
  congrArg Host.Outcome.next (handleRequest_replied h hk hn hg hr)

/-- R170: outside IDLE a request of settings is refused with STATE. -/
theorem next_refusedState (h : mayTake s f rest) (hk : f.kind = q.kind) (hn : f.payload.length = q.length)
    (hg : q.gate = gateIdle) (hrun : s.rc.run ≠ .idle) :
    (Host.Outcome.next (s.whenLive (handleRequest q)) : Host.Outcome State Fault Refusal) =
      .next (replied f [0x04#8] (taken rest s)) :=
  congrArg Host.Outcome.next (handleRequest_gate (st := .state) h hk hn (by rw [hg]; exact gateIdle_of_ne hrun))

end Answers

/-! ## SET_ODOMETRY and PRESET_POSITION -/

theorem senseOfCode_getD {v : Nat} (h : ¬ 1 < v) :
    (senseOfCode v).getD .normal = if v = 0 then .normal else .swapped := by
  match v with
  | 0 | 1 => rfl
  | n + 2 => exact absurd (show 1 < n + 2 by omega) h

theorem Du.setOdometry_eq (d : Du) (n k timeout now : Nat) (sense : Sense) : d.setOdometry n k timeout sense now =
    { d with
      n := n
      k := k
      sense := sense
      timeout := timeout
      pos := 0
      reference := none
      period := none
      fast := false
      standstill := match d.standstill with
        | none => none
        | some _ => some (now + timeout * 20000) } := by
  unfold Du.setOdometry
  cases d.standstill <;> rfl

/-- The body's answer and effect, field by field. -/
theorem repliedWith_setOdometryBody (f : Frame) (p : List Byte) (s : State) :
    repliedWith f (setOdometryBody p s) =
      if u8 p 0 < 1 ∨ 255 < u8 p 0 then replied f [0x03#8, 1#8] s
      else if 3 < u8 p 1 then replied f [0x03#8, 2#8] s
      else if 1 < u8 p 2 then replied f [0x03#8, 3#8] s
      else if u16 p 3 < 50 ∨ 5000 < u16 p 3 then replied f [0x03#8, 4#8] s
      else replied f [0x00#8] (commitDu noLatch
        (s.du.setOdometry (u8 p 0) (u8 p 1) (u16 p 3) ((senseOfCode (u8 p 2)).getD .normal) s.now) s) := by
  unfold setOdometryBody
  rw [repliedWith_checked_cons (by simp), repliedWith_checked_cons (by simp), repliedWith_checked_cons (by simp),
    repliedWith_checked_cons (by simp), checked_nil]
  simp only [outside_eq, senseOfCode_none, decide_eq_true_eq, Nat.not_lt_zero, false_or]
  rfl

/-- Settles O10: outside IDLE the run state's gate refuses; in IDLE the body answers. -/
theorem setOdometry : Obligations.SetOdometry := by
  intro s f rest h hk hn
  refine ⟨fun hrun => next_refusedState (q := setOdometryForm) h hk hn rfl hrun, fun hidle => ?answered⟩
  case answered =>
    intro n k sense timeout
    refine (next_answered (q := setOdometryForm) h hk hn (congrArg gateIdle hidle) (by decide)).trans
      (congrArg Host.Outcome.next ((repliedWith_setOdometryBody f f.payload (taken rest s)).trans ?_))
    refine ite_congr rfl (fun _ => rfl) fun _ => ite_congr rfl (fun _ => rfl) fun _ => ite_congr rfl (fun _ => rfl)
      fun hsense => ite_congr rfl (fun _ => rfl) fun _ => ?_
    rw [Du.setOdometry_eq, senseOfCode_getD hsense]
    rfl

theorem motionPreset_eq (m : MotionState) : motionPreset m = if m = .returning then .forward else m := by
  cases m <;> rfl

/-- Settles O11: outside IDLE the run state's gate refuses; in IDLE the preset is taken. -/
theorem presetPosition : Obligations.PresetPosition := by
  intro s f rest h hk hn
  refine ⟨fun hrun => next_refusedState (q := presetPositionForm) h hk hn rfl hrun, fun hidle => ?answered⟩
  case answered =>
    refine (next_answered (q := presetPositionForm) h hk hn (congrArg gateIdle hidle) (by decide)).trans
      (congrArg Host.Outcome.next ?_)
    rw [← motionPreset_eq]
    rfl

end Sys2Proof.Machine

/-!
The inputs of a side: the carriage and its debouncing (R18 to R20, R25), HVRDY (R23), HVFLT and the ramp timer (R24), and the
dispositions of side and coupling events (R36, R100).
-/
namespace Sys2Proof.Machine

/-! ## What a side event leaves of the Side Controllers -/

@[simp] theorem raiseSide_state (x y : Side) (e : SideEvent) (s : State) :
    ((raiseSide y e s).sc.get x).state = (s.sc.get x).state := by
  obtain ⟨ch, pr, heq⟩ := (raiseSide_internal y e s).sc x
  rw [heq]

@[simp] theorem raiseSide_hvflt (x y : Side) (e : SideEvent) (s : State) :
    ((raiseSide y e s).sc.get x).hvflt = (s.sc.get x).hvflt := by
  obtain ⟨ch, pr, heq⟩ := (raiseSide_internal y e s).sc x
  rw [heq]

/-! ## The carriage input and HVRDY -/

/-- Settles O12: the candidate starts or drops with the input, by definition. -/
theorem carriageInputChange : Obligations.CarriageInputChange :=
  fun _ after x hlive => next_after hlive after (carriageChange x)

theorem hvrdyArrival_known {x : Side} {s : State} (h : (s.sc.get x).hvrdy = true) : hvrdyArrival x s = s := if_pos h

theorem hvrdyArrival_arming {x : Side} {s : State} (h : (s.sc.get x).hvrdy = false) (hst : (s.sc.get x).state = .arming) :
    hvrdyArrival x s = raiseSide x .armed (s.modifySc x (fun sc =>
      { sc with hvrdy := true, state := .armed, ramp := none })) := by
  unfold hvrdyArrival
  rw [if_neg (by rw [h]; decide)]
  dsimp only
  rw [if_pos hst, State.modifySc_modifySc]

theorem hvrdyArrival_other {x : Side} {s : State} (h : (s.sc.get x).hvrdy = false) (hst : (s.sc.get x).state ≠ .arming) :
    hvrdyArrival x s = s.modifySc x (fun sc => { sc with hvrdy := true }) := by
  unfold hvrdyArrival
  rw [if_neg (by rw [h]; decide)]
  dsimp only
  rw [if_neg hst]

/-- Settles O14: an arrival of HVRDY completes an arming, and is a level alone in other side states. -/
theorem hvrdyEdges : Obligations.HvrdyEdges := by
  intro s after x hlive
  have harrives : exec (.hvrdyArrival after x) s = .next (hvrdyArrival x (s.advance after)) :=
    next_after hlive after (hvrdyArrival x)
  rw [harrives]
  refine ⟨fun hlow hst => ?_, fun hlow hst => ?_, fun hhigh => ?_, next_after hlive after (hvrdyFall x)⟩
  · rw [hvrdyArrival_arming (s := s.advance after) hlow hst]
  · rw [hvrdyArrival_other (s := s.advance after) hlow hst]
  · rw [hvrdyArrival_known (s := s.advance after) hhigh]

/-! ## The carriage flag -/

theorem autoArmCheck_arms {x : Side} {s : State} (h : (s.sc.get x).autoArm = true ∧ (s.sc.get x).level ≠ .off) :
    autoArmCheck x s = enterArming x s := if_pos h

theorem autoArmCheck_stays {x : Side} {s : State} (h : ¬((s.sc.get x).autoArm = true ∧ (s.sc.get x).level ≠ .off)) :
    autoArmCheck x s = s := if_neg h

theorem supplyFaultCheck_of_ne {x : Side} {s : State} (h : (s.sc.get x).state ≠ .arming) : supplyFaultCheck x s = s :=
  if_neg fun both => h both.1

theorem supplyFaultCheck_arming {x : Side} {s : State} (h : (s.sc.get x).state = .arming) :
    supplyFaultCheck x s = if (s.sc.get x).hvflt then supplyFault x s else s := by
  simp only [supplyFaultCheck, h, true_and]

/-- R20: a carriage that is lowered outside PARKED is an event alone. -/
theorem carriageLowered_of_ne {x : Side} {s : State} (hst : (s.sc.get x).state ≠ .parked) :
    carriageLowered x s = raiseSide x .carriageDown (s.modifySc x (fun sc => { sc with lowered := true })) := if_neg hst

theorem carriageLowered_parked {x : Side} {s : State} (hst : (s.sc.get x).state = .parked) :
    carriageLowered x s = supplyFaultCheck x (raiseSide x .carriageDown (autoArmCheck x
      ((s.modifySc x (fun sc => { sc with lowered := true })).modifySc x (Sc.supplyOff .lowered)))) := if_pos hst

/-- R19, R20: without auto-arm a lowered carriage leads from PARKED to LOWERED. -/
theorem carriageLowered_stays {x : Side} {s : State} (hst : (s.sc.get x).state = .parked)
    (hauto : ¬((s.sc.get x).autoArm = true ∧ (s.sc.get x).level ≠ .off)) :
    carriageLowered x s = raiseSide x .carriageDown (s.modifySc x (fun sc =>
      { sc with lowered := true, state := .lowered, supply := .off, ramp := none })) := by
  rw [carriageLowered_parked hst, State.modifySc_modifySc, autoArmCheck_stays (by simpa [Sc.supplyOff] using hauto),
    supplyFaultCheck_of_ne (by simp [Sc.supplyOff])]
  rfl

/-- R20, R22, R24: with auto-arm the side goes on to ARMING, where a supply fault is taken at once. -/
theorem carriageLowered_arms {x : Side} {s : State} (hst : (s.sc.get x).state = .parked)
    (hauto : (s.sc.get x).autoArm = true ∧ (s.sc.get x).level ≠ .off) :
    carriageLowered x s =
      let s1 := raiseSide x .carriageDown (s.modifySc x (fun sc =>
        { sc with lowered := true, state := .arming, supply := sc.level, ramp := some (s.now + 600000) }))
      if (s.sc.get x).hvflt then supplyFault x s1 else s1 := by
  rw [carriageLowered_parked hst, State.modifySc_modifySc, autoArmCheck_arms (by simpa [Sc.supplyOff] using hauto)]
  unfold enterArming
  rw [State.modifySc_modifySc, supplyFaultCheck_arming (by simp)]
  have hflt : ∀ e u, (s.sc.get x).hvflt = (u.sc.get x).hvflt →
      (if ((raiseSide x e u).sc.get x).hvflt then supplyFault x (raiseSide x e u) else raiseSide x e u) =
        if (s.sc.get x).hvflt then supplyFault x (raiseSide x e u) else raiseSide x e u :=
    fun e u hu => by rw [raiseSide_hvflt, hu]
  exact hflt _ _ (by simp [Sc.supplyOff])

theorem carriageRaised_fault {x : Side} {s : State} (hst : (s.sc.get x).state = .fault) :
    carriageRaised x s = raiseSide x .carriageUp (s.modifySc x (fun sc => { sc with lowered := false })) := by
  unfold carriageRaised
  dsimp only
  rw [if_pos hst, notifyDeparture_of_ne (by rw [hst]; decide)]

/-- R25, R26: outside FAULT a raised carriage parks the side, and a departure from ARMED aborts the engine's list. -/
theorem carriageRaised_parks {x : Side} {s : State} (hst : (s.sc.get x).state ≠ .fault) :
    carriageRaised x s =
      let s1 := raiseSide x .carriageUp (s.modifySc x (fun sc =>
        { sc with lowered := false, state := .parked, supply := .off, ramp := none }))
      if (s.sc.get x).state = .armed then abortList x s1 else s1 := by
  unfold carriageRaised
  dsimp only
  rw [if_neg hst, State.modifySc_modifySc]
  by_cases harmed : (s.sc.get x).state = .armed
  · rw [if_pos harmed, harmed, notifyDeparture_armed (by simp [Sc.supplyOff])]
    rfl
  · rw [if_neg harmed, notifyDeparture_of_ne harmed]
    rfl

theorem debounceExpiry_some {x : Side} {s : State} {d : Debounce} (h : (s.sc.get x).candidate = some d) :
    debounceExpiry x s =
      setCarriageFlag x d.level ((s.advanceTo d.deadline).modifySc x (fun sc => { sc with candidate := none })) := by
  unfold debounceExpiry
  rw [h]

namespace Settled

/-- Settles O13: the flag takes the candidate's level, and the side state moves by the level and the state before. -/
theorem debounceExpiry : Obligations.DebounceExpiry := by
  intro s x d hlive hd s0 armingNext
  have hexec : exec (.debounceExpiry x) s = .next (setCarriageFlag x d.level
      ((s.advanceTo d.deadline).modifySc x (fun sc => { sc with candidate := none }))) :=
    (next_whenLive hlive (Machine.debounceExpiry x)).trans (congrArg Host.Outcome.next (debounceExpiry_some hd))
  rw [hexec]
  generalize hu : (s.advanceTo d.deadline).modifySc x (fun sc => { sc with candidate := none }) = u
  have hsc : u.sc.get x = { s.sc.get x with candidate := none } := by rw [← hu]; simp
  have hnow : u.now = max s.now d.deadline := by rw [← hu]; rfl
  have hmodify : ∀ g, u.modifySc x g = (s.advanceTo d.deadline).modifySc x (fun sc => g { sc with candidate := none }) :=
    fun g => by rw [← hu, State.modifySc_modifySc]
  have hs0 : ∀ g, s0.modifySc x g = (s.advanceTo d.deadline).modifySc x
      (fun sc => g { sc with lowered := d.level, candidate := none }) := fun g => State.modifySc_modifySc _ _ _ _
  refine ⟨fun hl hst => ?lowered, fun hl hst hauto => ?stays, fun hl hst hauto => ?arms, fun hl hst => ?raised,
    fun hl hst => ?parks⟩
  case lowered =>
    rw [hl, show setCarriageFlag x true u = carriageLowered x u from rfl, carriageLowered_of_ne (by rwa [hsc]), hmodify,
      ← hl]
  case stays =>
    rw [hl, show setCarriageFlag x true u = carriageLowered x u from rfl,
      carriageLowered_stays (by rwa [hsc]) (by rwa [hsc]), hmodify, hs0, hl]
  case arms =>
    rw [hl, show setCarriageFlag x true u = carriageLowered x u from rfl,
      carriageLowered_arms (by rwa [hsc]) (by rwa [hsc]), hmodify, hs0, hl, hsc, hnow]
    rfl
  case raised =>
    rw [hl, show setCarriageFlag x false u = carriageRaised x u from rfl, carriageRaised_fault (by rwa [hsc]), hmodify,
      ← hl]
  case parks =>
    rw [hl, show setCarriageFlag x false u = carriageRaised x u from rfl, carriageRaised_parks (by rwa [hsc]), hmodify,
      hs0, hl, hsc]

end Settled

/-! ## HVFLT and the ramp timer -/

theorem hvfltChange_fall (x : Side) (s : State) :
    hvfltChange x false s = s.modifySc x (fun sc => { sc with hvflt := false }) := by
  unfold hvfltChange
  exact if_neg Bool.false_ne_true

theorem hvfltChange_quiet {x : Side} {s : State} (h : (s.sc.get x).hvflt = true ∨
    ((s.sc.get x).state ≠ .arming ∧ (s.sc.get x).state ≠ .armed)) :
    hvfltChange x true s = s.modifySc x (fun sc => { sc with hvflt := true }) := by
  refine if_neg ?_
  rcases h with hhigh | ⟨harming, harmed⟩
  · simp [hhigh]
  · simp [harming, harmed]

/-- R24, R26: in ARMING and ARMED an assertion of HVFLT is a supply fault, whose departure from ARMED is notified. -/
theorem hvfltChange_fault {x : Side} {s : State} (h : (s.sc.get x).hvflt = false)
    (hst : (s.sc.get x).state = .arming ∨ (s.sc.get x).state = .armed) : hvfltChange x true s =
    notifyDeparture x (s.sc.get x).state (raiseSide x .hvFault (s.modifySc x (fun sc =>
      { sc with hvflt := true, state := .fault, supply := .off, ramp := none }))) := by
  have hcond : (true && !(s.sc.get x).hvflt &&
      (decide ((s.sc.get x).state = .arming) || decide ((s.sc.get x).state = .armed))) = true := by
    rcases hst with hst | hst <;> simp [h, hst]
  refine (if_pos hcond).trans ?_
  rw [supplyFault, State.modifySc_modifySc]

theorem rampExpiry_arming {x : Side} {s : State} {t : Nat} (h : (s.sc.get x).ramp = some t)
    (hst : (s.sc.get x).state = .arming) :
    rampExpiry x s = raiseSide x .rampTimeout ((s.advanceTo t).modifySc x (Sc.supplyOff .fault)) := by
  unfold rampExpiry
  rw [h]
  exact if_pos hst

/-- Settles O15: an assertion of HVFLT by the side state, its fall, and the end of the ramp in ARMING. -/
theorem supplyFaultAndRampTimeout : Obligations.SupplyFaultAndRampTimeout := by
  intro s x hlive
  refine ⟨fun after => ?flt, fun t ht hst => ?ramp⟩
  case ramp =>
    exact (next_whenLive hlive (rampExpiry x)).trans (congrArg Host.Outcome.next (rampExpiry_arming ht hst))
  case flt =>
    intro s1
    have hexec : ∀ level, exec (.hvfltAsserted after x level) s = .next (hvfltChange x level (s.advance after)) :=
      fun level => next_after hlive after (hvfltChange x level)
    have hfault : (s1.sc.get x).state ≠ .armed := by simp [s1]
    rw [hexec, hexec]
    refine ⟨fun hlow hst => ?_, fun hlow hst => ?_, fun hquiet => ?_, ?_⟩
    · rw [hvfltChange_fault (s := s.advance after) hlow (.inl hst), notifyDeparture_of_ne (by simp [hst])]
    · rw [hvfltChange_fault (s := s.advance after) hlow (.inr hst), State.advance_sc, hst, notifyDeparture_armed hfault]
    · rw [hvfltChange_quiet (s := s.advance after) hquiet]
    · rw [hvfltChange_fall]

/-! ## Dispositions -/

section Dispose
variable {d : Disposition} {place : Bool → Li → Li} {s : State}

/-- R36: without a stop, an event that is not ignored is placed, with the alert mark as its disposition says. -/
theorem dispose_places (h : d ≠ .ignore) (hstop : d ≠ .halt ∨ s.rc.run ≠ .running) :
    dispose d place s = s.setLi (place (decide (d = .alert ∨ d = .halt)) s.li) := by
  cases d with
  | ignore => exact absurd rfl h
  | report | alert => rfl
  | halt =>
    rcases hstop with hd | hrun
    · exact absurd rfl hd
    · exact beginStop_of_ne (s := s.setLi _) hrun

/-- R36, R176: HALT begins a stop. -/
theorem dispose_halts (h : d = .halt) : dispose d place s = beginStop .halt (s.setLi (place true s.li)) := by
  rw [h]
  rfl

end Dispose

/-- Settles O16: the dispositions and bits by their tables; the events by the disposition and the run state. -/
theorem eventDispositions : Obligations.EventDispositions := by
  refine ⟨fun d => rfl, by decide, channelBit_getLsbD, fun s x e ch => ?_⟩
  intro d mark side coupling
  have hside : ∀ m, s.li.placeSide x e.bit m = side m := fun m => by
    unfold Li.placeSide
    split <;> rename_i heq <;> simp only [side, heq]
  have hcoupling : ∀ m, s.li.placeCoupling x ch m = coupling m := fun m => by
    unfold Li.placeCoupling
    split <;> rename_i heq <;> simp only [coupling, heq]
  refine ⟨fun hd => ?ignored, fun hd hstop => ?placed, fun hd hrun => ?halted⟩
  case ignored =>
    have hget : (s.sc.get x).dispositions.get e = .ignore := hd
    unfold raiseSide raiseCoupling
    rw [hget]
    exact ⟨rfl, rfl⟩
  case placed =>
    refine ⟨(dispose_places hd hstop).trans ?_, (dispose_places hd hstop).trans ?_⟩
    · rw [hside]; rfl
    · rw [hcoupling]; rfl
  case halted =>
    have hraise : raiseSide x e s = beginStop .halt { s with li := side true } :=
      (dispose_halts hd).trans (by rw [hside]; rfl)
    refine ⟨hraise, (dispose_halts hd).trans (by rw [hcoupling]; rfl), ?_⟩
    rw [hraise]
    exact beginStop_leaves hrun

end Sys2Proof.Machine

/-!
The requests that act on a side (R29 to R31, R35): the settings and the move of the side state, the clearing of faults, the
channel records and the profiles.
-/
namespace Sys2Proof.Machine

/-- A change of a Side Controller is what it makes of that controller. -/
theorem State.modifySc_congr {s : State} {x : Side} {g h : Sc → Sc} (hgh : g (s.sc.get x) = h (s.sc.get x)) :
    s.modifySc x g = s.modifySc x h := by
  unfold State.modifySc
  rw [hgh]

/-! ## SET_SIDE -/

/-- R29: a new level that is OFF lowers a side that is driven. -/
theorem moveForLevel_lowers {x : Side} {s : State} (hl : (s.sc.get x).level = .off)
    (hst : (s.sc.get x).state = .arming ∨ (s.sc.get x).state = .armed) : moveForLevel x s = lowerSupply x s := by
  unfold moveForLevel
  rcases hst with h | h <;> rw [h] <;> exact if_pos hl

/-- R29: another new level ramps a side that is driven again. -/
theorem moveForLevel_ramps {x : Side} {s : State} (hl : (s.sc.get x).level ≠ .off)
    (hst : (s.sc.get x).state = .arming ∨ (s.sc.get x).state = .armed) : moveForLevel x s = rampAgain x s := by
  unfold moveForLevel
  rcases hst with h | h <;> rw [h] <;> exact if_neg hl

theorem moveForLevel_stays {x : Side} {s : State}
    (hst : (s.sc.get x).state = .parked ∨ (s.sc.get x).state = .lowered ∨ (s.sc.get x).state = .fault) :
    moveForLevel x s = s := by
  unfold moveForLevel
  rcases hst with h | h | h <;> rw [h]

theorem supplyFaultCheck_enterArming_state (x : Side) (s : State) :
    ((supplyFaultCheck x (enterArming x s)).sc.get x).state ≠ .armed := by
  rw [supplyFaultCheck_enterArming]
  split <;> simp

theorem rampAgain_armed {x : Side} {s : State} (h : (s.sc.get x).state = .armed) :
    rampAgain x s = abortList x (supplyFaultCheck x (enterArming x s)) := by
  unfold rampAgain
  rw [h, notifyDeparture_armed (supplyFaultCheck_enterArming_state x s)]

theorem rampAgain_of_ne {x : Side} {s : State} (h : (s.sc.get x).state ≠ .armed) :
    rampAgain x s = supplyFaultCheck x (enterArming x s) := notifyDeparture_of_ne h

/-- The code of a disposition names it. -/
theorem dispositionOfCode_eq {n : Nat} {d : Disposition} (h : n = match d with
    | .ignore => 0
    | .report => 1
    | .alert => 2
    | .halt => 3) : dispositionOfCode n = some d := by
  rw [h]
  cases d <;> rfl

/-- The checks of a SET_SIDE payload by the values of its bytes. -/
theorem setSideChecks_eq (p : List Byte) :
    ([sideCheck p, (2, (levelOfCode (u8 p 1)).isNone), (3, (boolOfCode (u8 p 2)).isNone)] ++
      (List.range 8).map (fun i => (4 + i, (dispositionOfCode (u8 p (3 + i))).isNone)) : List (Nat × Bool)) =
    [(1, decide (1 < u8 p 0)), (2, decide (3 < u8 p 1)), (3, decide (1 < u8 p 2))] ++
      (List.range 8).map (fun j => (4 + j, decide (3 < u8 p (3 + j)))) := by
  simp only [sideCheck_eq, levelOfCode_none, boolOfCode_none, dispositionOfCode_none]

/-- A payload whose bytes are all codes passes the checks. -/
theorem setSideChecks_pass {p : List Byte} {x : Side} {level : HvLevel} {autoArm : Bool}
    (hx : u8 p 0 = sideCode x) (hl : u8 p 1 = level.code) (ha : u8 p 2 = boolCode autoArm)
    (hd : ∀ i < 8, dispositionOfCode (u8 p (3 + i)) ≠ none) :
    setSideBody p = fun s => (.ack [], setSide x level autoArm (dispositionsOfPayload p) s) := by
  funext s
  unfold setSideBody
  rw [checked_none (lowestFailing_eq_none.2 ?_), sideOfPayload_of hx, hl, ha, levelOfCode_code, boolOfCode_boolCode]
  · rfl
  · intro c hc
    rcases List.mem_append.1 hc with hfirst | hlater
    · rw [sideCheck_of hx, hl, ha, levelOfCode_code, boolOfCode_boolCode] at hfirst
      rcases List.mem_cons.1 hfirst with rfl | hrest
      · rfl
      · rcases List.mem_cons.1 hrest with rfl | hlast
        · rfl
        · rw [List.mem_singleton.1 hlast]; rfl
    · obtain ⟨i, hi, rfl⟩ := List.mem_map.1 hlater
      have hsome := hd i (List.mem_range.1 hi)
      cases hdisp : dispositionOfCode (u8 p (3 + i)) with
      | none => exact absurd hdisp hsome
      | some e => rfl

namespace Settled

/-- Settles O17: the checks by the values of the bytes; the settings; and the move of the side state by level and state. -/
theorem setSide : Obligations.SetSide := by
  intro s f rest h hk hn
  have hexec : exec .setSide s = .next (repliedWith f (setSideBody f.payload (taken rest s))) :=
    next_answered (q := setSideForm) h hk hn rfl (by decide)
  rw [hexec]
  refine ⟨fun i hi => ?refused, ?accepted⟩
  case refused =>
    unfold setSideBody
    rw [checked_some ((congrArg lowestFailing (setSideChecks_eq f.payload)).trans hi)]
    rfl
  case accepted =>
    intro x level autoArm d code hx hl ha h0 h1 h2 h3 h4 h5 h6 h7 s1 lowered ramping faulted
    have e0 := dispositionOfCode_eq h0
    have e1 := dispositionOfCode_eq h1
    have e2 := dispositionOfCode_eq h2
    have e3 := dispositionOfCode_eq h3
    have e4 := dispositionOfCode_eq h4
    have e5 := dispositionOfCode_eq h5
    have e6 := dispositionOfCode_eq h6
    have e7 := dispositionOfCode_eq h7
    have hd : dispositionsOfPayload f.payload = d := by
      simp only [dispositionsOfPayload, Nat.reduceAdd, e0, e1, e2, e3, e4, e5, e6, e7, Option.getD_some]
    have hall : ∀ i < 8, dispositionOfCode (u8 f.payload (3 + i)) ≠ none := by
      intro i hi
      obtain rfl | rfl | rfl | rfl | rfl | rfl | rfl | rfl : i = 0 ∨ i = 1 ∨ i = 2 ∨ i = 3 ∨ i = 4 ∨ i = 5 ∨ i = 6 ∨ i = 7 :=
        by omega
      all_goals simp only [Nat.reduceAdd, e0, e1, e2, e3, e4, e5, e6, e7] <;> exact nofun
    have hset : repliedWith f (setSideBody f.payload (taken rest s)) =
        replied f [0x00#8] (if level = (s.sc.get x).level then s1 else moveForLevel x s1) := by
      rw [setSideChecks_pass hx hl ha hall, hd]
      rfl
    have hstate : (s1.sc.get x).state = (s.sc.get x).state := by simp [s1]
    have hflt : (s1.sc.get x).hvflt = (s.sc.get x).hvflt := by simp [s1]
    have hlevel : (s1.sc.get x).level = level := by simp [s1]
    have henter : supplyFaultCheck x (enterArming x s1) = if (s.sc.get x).hvflt then faulted else ramping := by
      have hramp : s1.modifySc x (fun sc =>
          { sc with state := .arming, supply := sc.level, ramp := some (s1.now + 600000) }) = ramping :=
        State.modifySc_congr (by rw [hlevel]; rfl)
      rw [supplyFaultCheck_enterArming, hflt, hramp]
    rw [hset]
    refine ⟨fun hkeep => ?keep, fun hne hoff hst => ?armingOff, fun hne hoff hst => ?armedOff, fun hne hon hst => ?armingOn,
      fun hne hon hst => ?armedOn⟩
    case keep =>
      by_cases hsame : level = (s.sc.get x).level
      · rw [if_pos hsame]
      · rw [if_neg hsame, moveForLevel_stays (by rw [hstate]; exact hkeep.resolve_left hsame)]
    case armingOff =>
      have hst1 : (s1.sc.get x).state = .arming := hstate.trans hst
      rw [if_neg hne, moveForLevel_lowers (hlevel.trans hoff) (.inl hst1),
        lowerSupply_of_ne (by rw [hst1]; decide)]
      rfl
    case armedOff =>
      have hst1 : (s1.sc.get x).state = .armed := hstate.trans hst
      rw [if_neg hne, moveForLevel_lowers (hlevel.trans hoff) (.inr hst1), lowerSupply_armed hst1]
      rfl
    case armingOn =>
      have hst1 : (s1.sc.get x).state = .arming := hstate.trans hst
      rw [if_neg hne, moveForLevel_ramps (by rw [hlevel]; exact hon) (.inl hst1),
        rampAgain_of_ne (by rw [hst1]; decide), henter]
    case armedOn =>
      have hst1 : (s1.sc.get x).state = .armed := hstate.trans hst
      rw [if_neg hne, moveForLevel_ramps (by rw [hlevel]; exact hon) (.inr hst1), rampAgain_armed hst1, henter]

end Settled
/-! ## CLEAR_FAULT -/

theorem clearSideFault_of_ne {x : Side} {s : State} (h : (s.sc.get x).state ≠ .fault) : clearSideFault x s = s := if_neg h

theorem clearSideFault_raised {x : Side} {s : State} (h : (s.sc.get x).state = .fault)
    (hl : (s.sc.get x).lowered = false) :
    clearSideFault x s = s.modifySc x (fun sc => { sc with state := .parked }) :=
  (if_pos h).trans (if_neg (by rw [hl]; decide))

theorem clearSideFault_lowered {x : Side} {s : State} (h : (s.sc.get x).state = .fault)
    (hl : (s.sc.get x).lowered = true) : clearSideFault x s =
      supplyFaultCheck x (autoArmCheck x (s.modifySc x (fun sc => { sc with state := .lowered }))) :=
  (if_pos h).trans (if_pos hl)

/-- R20, R30: without auto-arm the side stays in LOWERED. -/
theorem clearSideFault_stays {x : Side} {s : State} (h : (s.sc.get x).state = .fault)
    (hl : (s.sc.get x).lowered = true) (hauto : ¬((s.sc.get x).autoArm = true ∧ (s.sc.get x).level ≠ .off)) :
    clearSideFault x s = s.modifySc x (fun sc => { sc with state := .lowered }) := by
  rw [clearSideFault_lowered h hl, autoArmCheck_stays (by simpa using hauto), supplyFaultCheck_of_ne (by simp)]

/-- R20, R24, R30: with auto-arm the side goes on to ARMING, where a supply fault is taken at once. -/
theorem clearSideFault_arms {x : Side} {s : State} (h : (s.sc.get x).state = .fault)
    (hl : (s.sc.get x).lowered = true) (hauto : (s.sc.get x).autoArm = true ∧ (s.sc.get x).level ≠ .off) :
    clearSideFault x s =
      if (s.sc.get x).hvflt then raiseSide x .hvFault (s.modifySc x (fun sc =>
        { sc with state := .fault, supply := .off, ramp := none }))
      else s.modifySc x (fun sc =>
        { sc with state := .arming, supply := sc.level, ramp := some (s.now + 600000) }) := by
  rw [clearSideFault_lowered h hl, autoArmCheck_arms (by simpa using hauto), supplyFaultCheck_enterArming,
    State.modifySc_modifySc, State.modifySc_modifySc]
  simp

/-- The checks of a CLEAR_FAULT payload with the code of side `x`: those of the target alone. -/
theorem repliedWith_clearFaultBody {f : Frame} {p : List Byte} {x : Side} (hx : u8 p 0 = sideCode x) (s : State) :
    repliedWith f (clearFaultBody p s) =
      if u8 p 1 ≠ 255 ∧ 11 < u8 p 1 then replied f [0x03#8, 2#8] s
      else replied f [0x00#8] (if u8 p 1 = 255 then clearSideFault x s else clearChannelFault x (channelOf (u8 p 1)) s) := by
  unfold clearFaultBody
  rw [sideCheck_of hx, sideOfPayload_of hx, repliedWith_checked_cons (by simp), repliedWith_checked_cons (by simp),
    checked_nil]
  simp only [Bool.false_eq_true, if_false, Bool.not_eq_true', Bool.or_eq_false_iff, decide_eq_false_iff_not, Nat.not_le]
  rfl

/-- Settles O20: the field checks, then the channel's fault or the side's, by its state, its carriage and its settings. -/
theorem clearFault : Obligations.ClearFault := by
  intro s f rest h hk hn
  have hexec : exec .clearFault s = .next (repliedWith f (clearFaultBody f.payload (taken rest s))) :=
    next_answered (q := clearFaultForm) h hk hn rfl (by decide)
  rw [hexec]
  refine ⟨fun hbad => ?noSide, fun x hx => ?side⟩
  case noSide =>
    unfold clearFaultBody
    rw [repliedWith, sideCheck_eq, checked_cons _ _ (by simp), if_pos (decide_eq_true hbad)]
    rfl
  case side =>
    intro target armingNext
    rw [repliedWith_clearFaultBody hx]
    have hside : target = 255 → (if u8 f.payload 1 ≠ 255 ∧ 11 < u8 f.payload 1
        then replied f [0x03#8, 2#8] (taken rest s)
        else replied f [0x00#8] (if u8 f.payload 1 = 255 then clearSideFault x (taken rest s)
          else clearChannelFault x (channelOf (u8 f.payload 1)) (taken rest s))) =
        replied f [0x00#8] (clearSideFault x (taken rest s)) := fun ht => by
      rw [if_neg (fun both => both.1 ht), if_pos ht]
    refine ⟨fun hne hbad => ?noTarget, fun ch hch => ?channel, fun ht hst => ?quiet, fun ht hst hl => ?raised,
      fun ht hst hl hauto => ?stays, fun ht hst hl hauto => ?arms⟩
    case noTarget => rw [if_pos ⟨hne, hbad⟩]
    case channel =>
      have hlt := ch.isLt
      have hne : ¬ u8 f.payload 1 = 255 := by omega
      have hch' : channelOf (u8 f.payload 1) = ch := by
        rw [show u8 f.payload 1 = ch.val from hch]
        exact Fin.ofNat_val_eq_self ch
      rw [if_neg (by omega), if_neg hne, hch']
      rfl
    case quiet => rw [hside ht, clearSideFault_of_ne (s := taken rest s) hst]
    case raised => rw [hside ht, clearSideFault_raised (s := taken rest s) hst hl]
    case stays => rw [hside ht, clearSideFault_stays (s := taken rest s) hst hl hauto]
    case arms =>
      rw [hside ht, clearSideFault_arms (s := taken rest s) hst hl hauto]
      rfl

/-! ## SET_CHANNEL -/

/-- The checks of a SET_CHANNEL payload by the values of its bytes. -/
theorem setChannelChecks_eq (p : List Byte) :
    ([sideCheck p, (2, outside 0 11 (u8 p 1)), (3, (roleOfCode (u8 p 2)).isNone),
      (4, outside 0 11 (u8 p 3)), (5, outside 1 15 (u8 p 4)), (6, outside 1 15 (u8 p 5))] : List (Nat × Bool)) =
    [(1, decide (1 < u8 p 0)), (2, decide (11 < u8 p 1)), (3, decide (3 < u8 p 2)), (4, decide (11 < u8 p 3)),
      (5, decide (u8 p 4 < 1 ∨ 15 < u8 p 4)), (6, decide (u8 p 5 < 1 ∨ 15 < u8 p 5))] := by
  simp only [sideCheck_eq, roleOfCode_none, outside_eq, Nat.not_lt_zero, false_or]

theorem roleOfCode_lt {n : Nat} {r : Role} (h : roleOfCode n = some r) : n ≤ 3 := by
  have hnone := roleOfCode_none (n := n)
  rw [h] at hnone
  exact Nat.not_lt.1 (of_decide_eq_false hnone.symm)

/-- In IDLE the new record takes effect at once (R31, R99). -/
theorem setChannel_idle {x : Side} {ch : Channel} {r : ChannelRecord} {s : State} (h : s.rc.run = .idle) :
    setChannel x ch r s =
      (s.modifySc x (fun sc =>
        { sc with channels := sc.channels.set ch r, pendingRecords := sc.pendingRecords.set ch none })).setCs x
          ((s.cs.get x).refresh ch) := by
  refine (if_pos h).trans ?_
  unfold recordTakesEffect
  have hset : ∀ v : Vector (Option ChannelRecord) 12, (v.set ch (some r))[ch] = some r := fun v => by simp
  have hget : (((s.modifySc x (fun sc =>
      { sc with pendingRecords := sc.pendingRecords.set ch (some r) })).sc.get x).pendingRecords)[ch] = some r := by
    rw [State.modifySc_sc, PerSide.get_set_self]
    exact hset _
  rw [hget]
  dsimp only
  rw [State.modifySc_modifySc]
  have hagain : ∀ v : Vector (Option ChannelRecord) 12, (v.set ch (some r)).set ch none = v.set ch none :=
    fun v => by simp
  simp only [hagain]
  rfl

theorem setChannel_waits {x : Side} {ch : Channel} {r : ChannelRecord} {s : State} (h : s.rc.run ≠ .idle) :
    setChannel x ch r s =
      s.modifySc x (fun sc => { sc with pendingRecords := sc.pendingRecords.set ch (some r) }) := if_neg h

namespace Settled

/-- Settles O21: the checks by the values of the bytes; the record waits, or in IDLE takes effect with a fresh rating. -/
theorem setChannel : Obligations.SetChannel := by
  intro s f rest h hk hn
  have hexec : exec .setChannel s = .next (repliedWith f (setChannelBody f.payload (taken rest s))) :=
    next_answered (q := setChannelForm) h hk hn rfl (by decide)
  rw [hexec]
  refine ⟨fun i hi => ?refused, fun x ch role partner lose regain r hp hr hl hl' hg hg' => ?accepted⟩
  case refused =>
    unfold setChannelBody
    rw [checked_some ((congrArg lowestFailing (setChannelChecks_eq f.payload)).trans hi)]
    rfl
  case accepted =>
    have hrole := roleOfCode_lt hr
    have h0 : u8 f.payload 0 = sideCode x := by rw [hp]; cases x <;> rfl
    have h1 : u8 f.payload 1 = ch.val := by
      rw [hp]; exact (BitVec.toNat_ofNat _ _).trans (Nat.mod_eq_of_lt (by omega))
    have h2 : u8 f.payload 2 = role := by
      rw [hp]; exact (BitVec.toNat_ofNat _ _).trans (Nat.mod_eq_of_lt (by omega))
    have h3 : u8 f.payload 3 = partner.val := by
      rw [hp]; exact (BitVec.toNat_ofNat _ _).trans (Nat.mod_eq_of_lt (by omega))
    have h4 : u8 f.payload 4 = lose := by
      rw [hp]; exact (BitVec.toNat_ofNat _ _).trans (Nat.mod_eq_of_lt (by omega))
    have h5 : u8 f.payload 5 = regain := by
      rw [hp]; exact (BitVec.toNat_ofNat _ _).trans (Nat.mod_eq_of_lt (by omega))
    have hchannel : ∀ c : Channel, channelOf c.val = c := Fin.ofNat_val_eq_self
    have hrecord : recordOfPayload f.payload = ⟨r, partner, lose, regain⟩ := by
      unfold recordOfPayload
      rw [h2, hr, h3, h4, h5, hchannel]
      rfl
    have hbody : repliedWith f (setChannelBody f.payload (taken rest s)) =
        replied f [0x00#8] (Machine.setChannel x ch ⟨r, partner, lose, regain⟩ (taken rest s)) := by
      unfold setChannelBody
      rw [setChannelChecks_eq, checked_none, sideOfPayload_of h0, h1, hchannel, hrecord]
      · rfl
      · have hside : sideCode x ≤ 1 := by cases x <;> decide
        have hch := ch.isLt
        have hpartner := partner.isLt
        rw [h0, h1, h2, h3, h4, h5]
        simp only [lowestFailing_eq_none, List.forall_mem_cons, decide_eq_false_iff_not]
        exact ⟨by omega, by omega, by omega, by omega, by omega, by omega, nofun⟩
    rw [hbody]
    refine ⟨fun hrun => ?waits, fun hidle => ?idle⟩
    case waits => rw [setChannel_waits (s := taken rest s) hrun]
    case idle =>
      rw [setChannel_idle (s := taken rest s) hidle]
      rfl

end Settled
end Sys2Proof.Machine

/-!
SET_PROFILE (R35, R52).
-/
namespace Sys2Proof.Machine

theorem ShotList.names_iff {l : ShotList} {n : Fin 4} : l.names n = true ↔ ∃ p ∈ l.shots, p.shot.profile = n := by
  simp [ShotList.names]

theorem ShotList.profileChanged_names {l : ShotList} {n : Fin 4} (v : Profile) (h : ∃ p ∈ l.shots, p.shot.profile = n) :
    l.profileChanged n v = l.withProfile n v := if_pos (ShotList.names_iff.2 h)

theorem ShotList.profileChanged_other {l : ShotList} {n : Fin 4} (v : Profile)
    (h : ¬∃ p ∈ l.shots, p.shot.profile = n) : l.profileChanged n v = l := if_neg (mt ShotList.names_iff.1 h)

theorem setProfile_active (x : Side) (n : Fin 4) (v : Profile) (s : State) :
    (setProfile x n v s).ps.active.get x = (s.ps.active.get x).profileChanged n v := PerSide.get_set_self _ _ _

theorem setProfile_staged (x : Side) (n : Fin 4) (v : Profile) (s : State) :
    (setProfile x n v s).ps.staged.get x = (s.ps.staged.get x).profileChanged n v := PerSide.get_set_self _ _ _

/-- In each slot SET_PROFILE changes the list of its side alone. -/
theorem setProfile_ps (x : Side) (n : Fin 4) (v : Profile) (s : State) : (setProfile x n v s).ps = { s.ps with
    active := s.ps.active.set x ((setProfile x n v s).ps.active.get x)
    staged := s.ps.staged.set x ((setProfile x n v s).ps.staged.get x) } := by
  rw [setProfile_active, setProfile_staged]
  rfl

/-- The checks of a SET_PROFILE payload by the values of its bytes. -/
theorem setProfileChecks_eq (p : List Byte) :
    ([sideCheck p, (2, outside 0 3 (u8 p 1)), (3, outside 0 400 (u16 p 2)), (4, outside 1 10 (u8 p 4)),
      (5, outside 10 2000 (u16 p 5))] : List (Nat × Bool)) =
    [(1, decide (1 < u8 p 0)), (2, decide (3 < u8 p 1)), (3, decide (400 < u16 p 2)),
      (4, decide (u8 p 4 < 1 ∨ 10 < u8 p 4)), (5, decide (u16 p 5 < 10 ∨ 2000 < u16 p 5))] := by
  simp only [sideCheck_eq, outside_eq, Nat.not_lt_zero, false_or]

namespace Settled

/-- Settles O22: the checks by the values of the bytes; IN_USE by the run state and the ACTIVE list; and the lists that
follow the profile. -/
theorem setProfile : Obligations.SetProfile := by
  intro s f rest h hk hn pre pulse recovery
  have hexec : exec .setProfile s = .next (repliedWith f (setProfileBody f.payload (taken rest s))) :=
    next_answered (q := setProfileForm) h hk hn rfl (by decide)
  rw [hexec]
  refine ⟨fun i hi => ?refused, fun x n hx hprofile h3 h4 h4' h5 h5' => ?accepted⟩
  case refused =>
    unfold setProfileBody
    rw [checked_some ((congrArg lowestFailing (setProfileChecks_eq f.payload)).trans hi)]
    rfl
  case accepted =>
    intro names v redone
    have hbody : repliedWith f (setProfileBody f.payload (taken rest s)) =
        if s.rc.run ≠ .idle ∧ (s.ps.active.get x).names n = true then replied f [0x06#8] (taken rest s)
        else replied f [0x00#8] (Machine.setProfile x n v (taken rest s)) := by
      unfold setProfileBody
      have hcode : Fin.ofNat 4 n.val = n := Fin.ofNat_val_eq_self n
      rw [setProfileChecks_eq, checked_none, sideOfPayload_of hx, hprofile, hcode, apply_ite (repliedWith f)]
      · rfl
      · have hside : u8 f.payload 0 ≤ 1 := by rw [hx]; cases x <;> decide
        have hn4 := n.isLt
        simp only [lowestFailing_eq_none, List.forall_mem_cons, decide_eq_false_iff_not]
        exact ⟨by omega, by omega, Nat.not_lt.2 h3, by omega, by omega, nofun⟩
    rw [hbody]
    refine ⟨fun hrun hnames => ?inUse, fun hfree => ⟨Machine.setProfile x n v (taken rest s), ?reply, rfl,
      setProfile_ps x n v (taken rest s), fun hnames => ?_, fun hnames => ?_, fun hnames => ?_, fun hnames => ?_⟩⟩
    case inUse => rw [if_pos ⟨hrun, ShotList.names_iff.2 hnames⟩]
    case reply =>
      refine congrArg Host.Outcome.next (if_neg fun both => ?_)
      rcases hfree with hidle | hnot
      · exact both.1 hidle
      · exact hnot (ShotList.names_iff.1 both.2)
    · rw [setProfile_active]
      exact ShotList.profileChanged_names v hnames
    · rw [setProfile_active]
      exact ShotList.profileChanged_other v hnames
    · rw [setProfile_staged]
      exact ShotList.profileChanged_names v hnames
    · rw [setProfile_staged]
      exact ShotList.profileChanged_other v hnames

end Settled
end Sys2Proof.Machine

/-!
The plan requests (R43 to R48, R53, R54): what a WRITE_SHOT payload brings and which payloads pass, CLEAR_STAGED and READ_SHOT,
SWAP_PLANS and the swap.
-/
namespace Sys2Proof.Machine

/-! ## What a WRITE_SHOT payload brings -/

theorem channelOf_val {n : Nat} (h : n ≤ 11) : (channelOf n).val = n := Nat.mod_eq_of_lt (by omega)

/-- The gate records of a payload that passes are those of its count. -/
theorem gatesInUse_of_le {p : List Byte} (h : u8 p 8 ≤ 4) : gatesInUse p = u8 p 8 := if_pos h

theorem gatesOfPayload_length (p : List Byte) : (gatesOfPayload p).length = gatesInUse p := by
  unfold gatesOfPayload
  rw [List.length_map, List.length_range]

/-- A gate of a payload that passes has the codes and fields of its record. -/
theorem gateOfPayload_of_pass {p : List Byte} {g : Nat} (h : ∀ c ∈ gateFieldChecks p g, c.2 = false) :
    (gateOfPayload p g).purpose.code = u8 p (9 + 9 * g) ∧ (gateOfPayload p g).mode.code = u8 p (10 + 9 * g) := by
  obtain ⟨hpurpose, hmode⟩ := gateFieldChecks_pass h
  have hp : ((purposeOfCode (u8 p (9 + 9 * g))).getD .detect).code = u8 p (9 + 9 * g) := purposeOfCode_code hpurpose
  have hm : ((modeOfCode (u8 p (10 + 9 * g))).getD .absolute).code = u8 p (10 + 9 * g) := modeOfCode_code hmode
  refine ⟨hp, ?_⟩
  have hoffset : gateOffset g + 1 = 10 + 9 * g := by unfold gateOffset; omega
  rw [← hoffset] at hm ⊢
  exact hm

/-- R42, R49: the end of a gate's window for the listening end, with the one REFERENCE gate's own end. -/
theorem windowEnd_eq {gates : List Gate} {reference : Nat}
    (all : ∀ r ∈ gates, r.purpose = .reference → r.start + r.width = reference)
    (one : ∀ g ∈ gates, g.mode = .follow → ∃ r ∈ gates, r.purpose = .reference) {g : Gate} (hg : g ∈ gates) :
    g.windowEnd gates = if g.mode = .follow then min 4000 (reference + g.start + g.width) else g.start + g.width := by
  unfold Gate.windowEnd
  cases hmode : g.mode with
  | absolute => rfl
  | follow => rw [referenceEnd_eq all (one g hg hmode)]; rfl

/-! ## WRITE_SHOT -/

theorem writeShotBody_busy {p : List Byte} {s : State} (h : s.ps.swapPending = true) :
    writeShotBody p s = (.refuse .busy, s) := if_pos h

/-- Without a pending swap the payload is checked against the side's STAGED list. -/
theorem writeShotBody_free {p : List Byte} {s : State} (h : s.ps.swapPending = false) : writeShotBody p s =
    match writeShotFailing p (s.ps.staged.get (sideOfPayload p)).shots.length with
    | some i => (.range i, s)
    | none => writeShot (sideOfPayload p) (u8 p 1) (plannedShot (s.sc.get (sideOfPayload p)) (shotOfPayload p)) s :=
  if_neg (by rw [h]; decide)

/-- A side code that names none fails before every other field. -/
theorem writeShotFailing_side {p : List Byte} {count : Nat} (h : 1 < u8 p 0) : writeShotFailing p count = some 1 := by
  refine writeShotFailing_eq_some.2 (.inl (lowestFailing_eq_some.2 ⟨?_, fun j hj => ?_⟩))
  · exact mem_shotFieldChecks.2 (.inl ⟨rfl, h⟩)
  · rcases mem_shotFieldChecks.1 hj with h' | h' | h' | h' | h' | h' | h' | h' | h' | ⟨-, g, -, hg⟩
    case inr.inr.inr.inr.inr.inr.inr.inr.inr =>
      have hj' := mem_gateFieldChecks.1 hg
      omega
    all_goals omega

/-- The shot of a payload that passes has the payload's fields (R41, R188). -/
theorem shotOfPayload_fields {p : List Byte} {count : Nat} (h : writeShotFailing p count = none) :
    (shotOfPayload p).tx.val = u8 p 2 ∧ (shotOfPayload p).rx.val = u8 p 3 ∧ (shotOfPayload p).profile.val = u8 p 5 ∧
      (shotOfPayload p).gates.length = u8 p 8 := by
  obtain ⟨-, -, -, h2, h3, -, h5, -, -, h8, -⟩ := shotFieldChecks_pass (writeShotFailing_eq_none.1 h).1
  exact ⟨channelOf_val h2, channelOf_val h3, Nat.mod_eq_of_lt (by omega),
    (gatesOfPayload_length p).trans (gatesInUse_of_le h8)⟩

/-- Its gates have the fields of their records (R42, R188). -/
theorem shotOfPayload_gate {p : List Byte} {count g : Nat} {gate : Gate} (h : writeShotFailing p count = none)
    (hg : (shotOfPayload p).gates[g]? = some gate) :
    gate.purpose.code = u8 p (9 + 9 * g) ∧ gate.mode.code = u8 p (10 + 9 * g) ∧
      gate.start = u16 p (11 + 9 * g) ∧ gate.width = u16 p (13 + 9 * g) ∧ gate.t1 = u8 p (15 + 9 * g) ∧
      gate.t2 = u8 p (16 + 9 * g) ∧ gate.conditionCode.toNat = u8 p (17 + 9 * g) := by
  obtain ⟨-, -, -, -, -, -, -, -, -, h8, hchecks⟩ := shotFieldChecks_pass (writeShotFailing_eq_none.1 h).1
  obtain ⟨hlt, rfl⟩ := gatesOfPayload_get hg
  obtain ⟨hpurpose, hmode⟩ := gateOfPayload_of_pass (hchecks g (gatesInUse_of_le h8 ▸ hlt))
  exact ⟨hpurpose, hmode, gateOfPayload_fields p g⟩

namespace Settled

/-- Settles O24: the request by the pending swap and the failing field, and what the Plan Store computes. -/
theorem writeShot : Obligations.WriteShot := by
  refine ⟨fun s f rest h hk hn => ?request, fun p i => ⟨rfl, by unfold u16; omega, s32_eq p i⟩, fun p count h => ?fields,
    fun gates reference all one => ?listening, durationWith_spec, planTimeOf_spec⟩
  case request =>
    have hexec : exec .writeShot s = .next (repliedWith f (writeShotBody f.payload (taken rest s))) :=
      next_answered (q := writeShotForm) h hk hn rfl (by decide)
    rw [hexec]
    refine ⟨fun hbusy => ?busy, fun hfree hbad => ?noSide, fun hfree x hx => ?checked⟩
    case busy => rw [writeShotBody_busy (s := taken rest s) hbusy]; rfl
    case noSide =>
      rw [writeShotBody_free (s := taken rest s) hfree, writeShotFailing_side hbad]
      rfl
    case checked =>
      rw [writeShotBody_free (s := taken rest s) hfree, sideOfPayload_of hx]
      refine ⟨fun n hn' => ?_, fun hnone => ?_⟩
      · rw [taken_ps, show writeShotFailing f.payload (s.ps.staged.get x).shots.length = some n from hn']
        rfl
      · rw [taken_ps, show writeShotFailing f.payload (s.ps.staged.get x).shots.length = none from hnone]
        rfl
  case fields =>
    obtain ⟨htx, hrx, hprofile, hgates⟩ := shotOfPayload_fields h
    exact ⟨htx, hrx, rfl, hprofile, rfl, rfl, hgates, fun g gate hg => shotOfPayload_gate h hg⟩
  case listening =>
    obtain ⟨hbound, hreached⟩ := listeningEnd_spec gates
    refine ⟨fun g hg => Nat.le_trans (Nat.le_of_eq (windowEnd_eq all one hg).symm) (hbound g hg), fun hne => ?_, fun hnil => by rw [hnil]; rfl⟩
    obtain ⟨g, hg, heq⟩ := hreached hne
    exact ⟨g, hg, (windowEnd_eq all one hg).symm.trans heq⟩

end Settled

/-! ## Which WRITE_SHOT payloads pass -/

/-- No check of a list fails when none of its entries says so. -/
theorem lowestFailing_eq_none_iff_not_mem {cs : List (Nat × Bool)} : lowestFailing cs = none ↔ ∀ i, (i, true) ∉ cs := by
  rw [lowestFailing_eq_none]
  refine ⟨fun h i hi => Bool.noConfusion (h _ hi), fun h c hc => ?_⟩
  obtain ⟨i, b⟩ := c
  cases b with
  | false => rfl
  | true => exact absurd hc (h i)

/-- R44: when the fields of a gate record are in range. -/
theorem gateFieldChecks_none {p : List Byte} {g : Nat} : (∀ i, (i, true) ∉ gateFieldChecks p g) ↔
    u8 p (9 + 9 * g) ≤ 2 ∧ u8 p (10 + 9 * g) ≤ 1 ∧ u16 p (11 + 9 * g) ≤ 3999 ∧ 1 ≤ u16 p (13 + 9 * g) ∧
      u16 p (13 + 9 * g) ≤ 4000 ∧ 1 ≤ u8 p (15 + 9 * g) ∧ u8 p (15 + 9 * g) ≤ 199 ∧ 1 ≤ u8 p (16 + 9 * g) ∧
      u8 p (16 + 9 * g) ≤ 199 ∧ (u8 p (9 + 9 * g) ≠ 2 → u8 p (17 + 9 * g) ≤ 3) := by
  simp only [mem_gateFieldChecks, not_or, not_and, forall_and, forall_eq, Nat.not_lt]
  omega

/-- R44: when the fields of a payload are in range. -/
theorem shotFieldChecks_none {p : List Byte} {count : Nat} : (∀ i, (i, true) ∉ shotFieldChecks p count) ↔
    (u8 p 0 ≤ 1 ∧ u8 p 1 ≤ 15 ∧ u8 p 1 ≤ count ∧ u8 p 2 ≤ 11 ∧ u8 p 3 ≤ 11 ∧ u8 p 4 ≤ 160 ∧ u8 p 5 ≤ 3 ∧
      (u8 p 6 = 1 ∨ u8 p 6 = 2 ∨ u8 p 6 = 4) ∧ u8 p 7 < u8 p 6 ∧ u8 p 8 ≤ 4) ∧
    ∀ g : Nat, g < u8 p 8 → ∀ i, (i, true) ∉ gateFieldChecks p g := by
  have hcadence := cadenceOk_iff (n := u8 p 6)
  simp only [mem_shotFieldChecks, not_or, not_and, not_exists, forall_and, forall_eq, Bool.not_eq_false, ← hcadence]
  constructor
  · rintro ⟨h0, h1, h2, h3, h4, h5, h6, h7, h8, hgates⟩
    rw [if_pos h6] at h7
    exact ⟨⟨by omega, by omega, by omega, by omega, by omega, by omega, by omega, h6, by omega, by omega⟩,
      fun g hg i => hgates i (by omega) g hg⟩
  · rintro ⟨⟨h0, h1, h1', h2, h3, h4, h5, h6, h7, h8⟩, hgates⟩
    rw [if_pos h6]
    exact ⟨by omega, by omega, by omega, by omega, by omega, by omega, h6, by omega, by omega,
      fun i _ g hg => hgates g hg i⟩

/-- Settles O25: an index fails a check exactly when its field is out of range, or with all fields in range when it
disagrees with another. -/
theorem writeShotChecks : Obligations.WriteShotChecks := by
  refine ⟨fun p count => ?_, fun checks i => lowestFailing_eq_some⟩
  intro purpose mode start width t1 t2 condition okay outOfRange disagree least
  have hout : ∀ i, (i, true) ∈ shotFieldChecks p count ↔ outOfRange i := fun i => by
    have hokay : cadenceOk (u8 p 6) = true ↔ okay := cadenceOk_iff
    have hbad : cadenceOk (u8 p 6) = false ↔ ¬okay := by rw [← hokay, Bool.not_eq_true]
    have hphase : (if cadenceOk (u8 p 6) then u8 p 6 else 1) ≤ u8 p 7 ↔
        (okay → u8 p 6 ≤ u8 p 7) ∧ (¬okay → 1 ≤ u8 p 7) := by
      by_cases h : okay
      · rw [if_pos (hokay.2 h)]; exact ⟨fun hle => ⟨fun _ => hle, fun hn => absurd h hn⟩, fun both => both.1 h⟩
      · rw [if_neg (mt hokay.1 h)]; exact ⟨fun hle => ⟨fun hy => absurd hy h, fun _ => hle⟩, fun both => both.2 h⟩
    rw [mem_shotFieldChecks, hbad, hphase]
    simp only [mem_gateFieldChecks]
    rfl
  have hnone : lowestFailing (shotFieldChecks p count) = none ↔ ∀ j, ¬outOfRange j := by
    simp only [lowestFailing_eq_none_iff_not_mem, hout]
  have hdisagree : (∀ j, ¬outOfRange j) → ∀ i, (i, true) ∈ relationChecks (gatesOfPayload p) ↔ disagree i := fun h i => by
    obtain ⟨⟨-, -, -, -, -, -, -, -, -, h8⟩, hgates⟩ := shotFieldChecks_none.1 fun j => mt (hout j).1 (h j)
    exact mem_relationChecks_payload h8 (fun g hg => by
      obtain ⟨hpurpose, hmode, -⟩ := gateFieldChecks_none.1 (hgates g hg)
      exact ⟨hpurpose, hmode⟩) i
  refine ⟨fun i => ?some, ?none⟩
  case some =>
    rw [writeShotFailing_eq_some, hnone]
    refine or_congr ?_ (and_congr_right fun h => ?_)
    · rw [lowestFailing_eq_some]
      exact and_congr (hout i) (forall_congr' fun j => imp_congr_left (hout j))
    · rw [lowestFailing_eq_some]
      exact and_congr (hdisagree h i) (forall_congr' fun j => imp_congr_left (hdisagree h j))
  case none =>
    rw [writeShotFailing_eq_none, hnone, lowestFailing_eq_none_iff_not_mem, ← and_assoc]
    have hrange : (∀ j, ¬outOfRange j) ↔ _ :=
      (forall_congr' fun j => not_congr (hout j)).symm.trans shotFieldChecks_none
    refine (and_congr_right fun h => forall_congr' fun j => not_congr (hdisagree h j)).trans ?_
    rw [hrange]
    simp only [gateFieldChecks_none]
    refine and_congr_right fun hfields => ?_
    have hsplit : (∀ j, ¬disagree j) ↔ ∀ g, g < u8 p 8 → ∀ j, ¬ _ :=
      ⟨fun h g hg j hc => h j ⟨g, hg, hc⟩, fun h j ⟨g, hg, hc⟩ => h g hg j hc⟩
    refine hsplit.trans (forall_congr' fun g => imp_congr_right fun hg => ?_)
    simp only [not_or, not_and, forall_and, forall_eq, not_exists, Nat.not_lt, Nat.not_le, or_imp]
    simp only [Classical.not_forall, Classical.not_not, exists_prop]
    exact ⟨fun ⟨hreference, hcoupling, hfollow, hend, hinside, houtside⟩ =>
        ⟨hend, ⟨hinside, houtside⟩, hreference, hcoupling, hfollow⟩,
      fun ⟨hend, ⟨hinside, houtside⟩, hreference, hcoupling, hfollow⟩ =>
        ⟨hreference, hcoupling, hfollow, hend, hinside, houtside⟩⟩

end Sys2Proof.Machine

/-!
CLEAR_STAGED, READ_SHOT and SWAP_PLANS (R47, R48, R53, R54), the zone requests (R122, R123), RESET (R181), and the common
checks of the requests (R170 to R172).
-/
namespace Sys2Proof.Machine

/-! ## Gate records -/

theorem Gate.bytes_length (g : Gate) : g.bytes.length = 9 := rfl

theorem flatMap_gateBytes_length (gates : List Gate) : (gates.flatMap Gate.bytes).length = 9 * gates.length := by
  induction gates with
  | nil => rfl
  | cons g gates ih =>
    rw [List.flatMap_cons, List.length_append, ih, List.length_cons, Gate.bytes_length]
    omega

/-- R189: up to four records, and zeros above the count. -/
theorem gateBytes_eq {gates : List Gate} (h : gates.length ≤ 4) :
    gateBytes gates = gates.flatMap Gate.bytes ++ List.replicate (36 - 9 * gates.length) 0#8 := by
  have hlen := flatMap_gateBytes_length gates
  unfold gateBytes
  rw [List.take_append, List.take_of_length_le (by omega), List.take_replicate, hlen, Nat.min_eq_left (by omega)]

/-! ## CLEAR_STAGED -/

theorem clearStagedBody_busy {p : List Byte} {s : State} (h : s.ps.swapPending = true) :
    clearStagedBody p s = (.refuse .busy, s) := if_pos h

/-- R47: without a pending swap the code names the sides to clear. -/
theorem clearStagedBody_free {p : List Byte} {s : State} (h : s.ps.swapPending = false) : clearStagedBody p s =
    if u8 p 0 = 0 then (.ack [], s.setPs { s.ps with staged := ⟨⟨[], 0⟩, s.ps.staged.b⟩ })
    else if u8 p 0 = 1 then (.ack [], s.setPs { s.ps with staged := ⟨s.ps.staged.a, ⟨[], 0⟩⟩ })
    else if u8 p 0 = 2 then (.ack [], s.setPs { s.ps with staged := ⟨⟨[], 0⟩, ⟨[], 0⟩⟩ })
    else (.range 1, s) := by
  unfold clearStagedBody
  rw [if_neg (by rw [h]; decide)]
  match u8 p 0 with
  | 0 | 1 | 2 => rfl
  | n + 3 => rfl

/-! ## READ_SHOT -/

theorem slotOfCode_none (ps : Ps) (n : Nat) : (slotOfCode ps n).isNone = decide (1 < n) := by
  match n with
  | 0 | 1 => rfl
  | n + 2 => exact (decide_eq_true (show 1 < n + 2 by omega)).symm

theorem slotOfCode_getD {ps : Ps} {n : Nat} (h : ¬1 < n) :
    (slotOfCode ps n).getD ps.active = if n = 0 then ps.active else ps.staged := by
  match n with
  | 0 | 1 => rfl
  | n + 2 => exact absurd (show 1 < n + 2 by omega) h

theorem sideOfCode_getD {α : Type} {p : PerSide α} {n : Nat} (h : ¬1 < n) :
    p.get ((sideOfCode n).getD .a) = if n = 0 then p.a else p.b := by
  match n with
  | 0 | 1 => rfl
  | n + 2 => exact absurd (show 1 < n + 2 by omega) h

/-- The body's answer, field by field. -/
theorem repliedWith_readShotBody (f : Frame) (p : List Byte) (s : State) : repliedWith f (readShotBody p s) =
    if 1 < u8 p 0 then replied f [0x03#8, 1#8] s
    else if 1 < u8 p 1 then replied f [0x03#8, 2#8] s
    else if 15 < u8 p 2 then replied f [0x03#8, 3#8] s
    else replied f (0x00#8 :: readShotData s.ps.generation
      (((slotOfCode s.ps (u8 p 0)).getD s.ps.active).get ((sideOfCode (u8 p 1)).getD .a)) (u8 p 2)) s := by
  unfold readShotBody
  rw [repliedWith_checked_cons (by simp), repliedWith_checked_cons (by simp), repliedWith_checked_cons (by simp),
    checked_nil]
  simp only [slotOfCode_none, sideOfCode_none, outside_eq, decide_eq_true_eq, Nat.not_lt_zero, false_or]
  rfl

/-- Settles O26: the bytes of the gate records; CLEAR_STAGED by the pending swap and the code; READ_SHOT field by field. -/
theorem clearStagedAndReadShot : Obligations.ClearStagedAndReadShot := by
  refine ⟨fun gates h => gateBytes_eq h, fun s f rest h => ⟨fun hk hn => ?clear, fun hk hn => ?read⟩⟩
  case clear =>
    intro cleared
    have hexec : exec .clearStaged s = .next (repliedWith f (clearStagedBody f.payload (taken rest s))) :=
      next_answered (q := clearStagedForm) h hk hn rfl (by decide)
    rw [hexec]
    refine ⟨fun hbusy => ?_, fun hfree => ?_⟩
    · rw [clearStagedBody_busy (s := taken rest s) hbusy]
      rfl
    · rw [clearStagedBody_free (s := taken rest s) hfree, apply_ite (repliedWith f), apply_ite (repliedWith f),
        apply_ite (repliedWith f)]
      rfl
  case read =>
    intro slot side i plan l head
    have hexec : exec .readShot s = .next (repliedWith f (readShotBody f.payload (taken rest s))) :=
      next_answered (q := readShotForm) h hk hn rfl (by decide)
    rw [hexec, repliedWith_readShotBody]
    refine congrArg Host.Outcome.next (ite_congr rfl (fun _ => rfl) fun hslot => ite_congr rfl (fun _ => rfl)
      fun hside => ite_congr rfl (fun _ => rfl) fun _ => ?_)
    have hl : ((slotOfCode (taken rest s).ps (u8 f.payload 0)).getD (taken rest s).ps.active).get
        ((sideOfCode (u8 f.payload 1)).getD .a) = l := by
      rw [slotOfCode_getD hslot, sideOfCode_getD hside]
      rfl
    rw [hl]
    unfold readShotData
    cases hshot : l.shots[i]? with
    | none => rfl
    | some p => rfl

/-! ## SWAP_PLANS -/

theorem swapPlans_ps (s : State) : (swapPlans s).ps = ⟨s.ps.staged, s.ps.active, s.ps.generation + 1, false⟩ := by
  rw [swapPlans_eq]

/-- R93, R98: each side's supervision follows the list that becomes ACTIVE. -/
theorem swapPlans_cs (s : State) (x : Side) : (swapPlans s).cs.get x = (s.cs.get x).swap (s.ps.staged.get x) := by
  unfold swapPlans recomputeFast
  obtain ⟨l, heq, -⟩ := commitDu_frame noLatch
    { s.du with fast := fastOf s.du.period (max s.ps.staged.a.planTime s.ps.staged.b.planTime) }
    (s.setPs ⟨s.ps.staged, s.ps.active, s.ps.generation + 1, false⟩)
  dsimp only [State.setPs_ps, State.setPs_du, PerSide.longerPlanTime]
  rw [heq]
  cases x <;> rfl

/-- R98: a channel supervised before and after keeps its rating. -/
theorem Cs.swap_ratings (l : ShotList) (c : Cs) (ch : Channel) : (c.swap l).ratings[ch] =
    if l.supervised.getLsbD ch.val then
      if c.supervised.getLsbD ch.val then c.ratings[ch] else ⟨.unproven, 0, 0⟩
    else ⟨.unsupervised, 0, 0⟩ := by
  unfold Cs.swap freshRating
  simp only [Fin.getElem_fin, Vector.getElem_ofFn]
  cases c.supervised.getLsbD ch.val <;> cases l.supervised.getLsbD ch.val <;> rfl

namespace Settled

/-- Settles O27: the request by run state and flag; the parts of the swap; and the supervised channels of a list. -/
theorem swapPlans : Obligations.SwapPlans := by
  refine ⟨fun s f rest h hk hn => ?request, fun s => ?swap, ShotList.supervised_iff⟩
  case request =>
    have hexec : exec .swapPlans s = .next (repliedWith f (swapPlansBody f.payload (taken rest s))) :=
      next_answered (q := swapPlansForm) h hk hn rfl (by decide)
    rw [hexec]
    unfold swapPlansBody
    refine ⟨fun hidle => ?idle, fun hrun hbusy => ?busy, fun hrun hfree => ?waits⟩
    case idle =>
      rw [if_pos (show (taken rest s).rc.run = .idle from hidle), swapPlans_ps]
      rfl
    case busy =>
      rw [if_neg (show ¬(taken rest s).rc.run = .idle from hrun),
        if_pos (show (taken rest s).ps.swapPending = true from hbusy)]
      rfl
    case waits =>
      rw [if_neg (show ¬(taken rest s).rc.run = .idle from hrun),
        if_neg (show ¬(taken rest s).ps.swapPending = true by rw [taken_ps, hfree]; decide)]
      rfl
  case swap =>
    obtain ⟨b, c, l, hframe, -⟩ := swapPlans_frame s
    have hswap := swapPlans_eq s
    refine ⟨swapPlans_ps s, by rw [hswap]; exact commitDu_du _ _ _, fun x ch => ⟨?_, ?_⟩, by rw [hframe], by rw [hframe],
      by rw [hframe], by rw [hframe], by rw [hframe], hswap⟩
    · rw [swapPlans_cs]
      rfl
    · rw [swapPlans_cs]
      exact Cs.swap_ratings _ _ _

end Settled

/-! ## SET_ZONE and SET_OFFSET -/

/-- The checks of a SET_ZONE payload by the values of its bytes. -/
theorem setZoneChecks_eq (p : List Byte) :
    ([(1, (sideOfCode (u8 p 0)).isNone), (2, outside 0 7 (u8 p 1)), (3, (boolOfCode (u8 p 2)).isNone),
      (5, decide (s32 p 7 < s32 p 3)), (6, decide (4096 ≤ u16 p 11)), (7, (zoneActionOfCode (u8 p 13)).isNone),
      (8, outside 1 15 (u8 p 14))] : List (Nat × Bool)) =
    [(1, decide (1 < u8 p 0)), (2, decide (7 < u8 p 1)), (3, decide (1 < u8 p 2)), (5, decide (s32 p 7 < s32 p 3)),
      (6, decide (4095 < u16 p 11)), (7, decide (1 < u8 p 13)), (8, decide (u8 p 14 < 1 ∨ 15 < u8 p 14))] := by
  simp only [sideOfCode_none, boolOfCode_none, zoneActionOfCode_none, outside_eq, Nat.not_lt_zero, false_or]
  rfl

theorem zoneActionOfCode_getD {n : Nat} (h : n ≤ 1) :
    (zoneActionOfCode n).getD .mask = if n = 0 then .mask else .tag := by
  match n with
  | 0 | 1 => rfl
  | n + 2 => exact absurd h (by omega)

/-- The record of a SET_ZONE payload with these codes. -/
theorem zoneOfPayload_eq {p : List Byte} {enable : Bool} (he : u8 p 2 = boolCode enable) (ha : u8 p 13 ≤ 1) :
    zoneOfPayload p = ⟨enable, s32 p 3, s32 p 7, BitVec.ofNat 12 (u16 p 11),
      if u8 p 13 = 0 then .mask else .tag, u8 p 14⟩ := by
  unfold zoneOfPayload
  rw [he, boolOfCode_boolCode, zoneActionOfCode_getD ha]
  rfl

/-- Settles O29: the checks by the values of the bytes, the record in its place, and the offset. -/
theorem zoneRequests : Obligations.ZoneRequests := by
  intro s f rest h
  refine ⟨fun hk hn => ?zone, fun hk hn => next_answered (q := setOffsetForm) h hk hn rfl (by decide)⟩
  case zone =>
    intro start stop mask kind
    have hexec : exec .setZone s = .next (repliedWith f (setZoneBody f.payload (taken rest s))) :=
      next_answered (q := setZoneForm) h hk hn rfl (by decide)
    rw [hexec]
    refine ⟨fun i hi => ?refused, fun x n enable hx hn' he hrange hmask haction hkind hkind' => ?accepted⟩
    case refused =>
      unfold setZoneBody
      rw [checked_some ((congrArg lowestFailing (setZoneChecks_eq f.payload)).trans hi)]
      rfl
    case accepted =>
      intro z
      have hpass : lowestFailing [(1, decide (1 < u8 f.payload 0)), (2, decide (7 < u8 f.payload 1)),
          (3, decide (1 < u8 f.payload 2)), (5, decide (stop < start)), (6, decide (4095 < mask)),
          (7, decide (1 < u8 f.payload 13)), (8, decide (kind < 1 ∨ 15 < kind))] = none := by
        have hside : u8 f.payload 0 ≤ 1 := by rw [hx]; cases x <;> decide
        have henable : u8 f.payload 2 ≤ 1 := by rw [he]; cases enable <;> decide
        have hn8 := n.isLt
        simp only [lowestFailing_eq_none, List.forall_mem_cons, decide_eq_false_iff_not]
        exact ⟨by omega, by omega, by omega, by omega, by omega, by omega, by omega, nofun⟩
      have hcode : Fin.ofNat 8 n.val = n := Fin.ofNat_val_eq_self n
      unfold setZoneBody
      rw [checked_none ((congrArg lowestFailing (setZoneChecks_eq f.payload)).trans hpass), hx, sideOfCode_sideCode, hn',
        hcode, zoneOfPayload_eq he haction]
      rfl

/-! ## RESET -/

theorem scopeOfCode_none {n : Nat} (h : 1 < n) : scopeOfCode n = none := by
  match n with
  | 0 | 1 => exact absurd h (by decide)
  | n + 2 => rfl

/-- Settles O33: the scope is checked, and an accepted RESET is answered and awaited. -/
theorem resetRequest : Obligations.ResetRequest := by
  intro s f rest h hk hn
  have hexec : exec .reset s = .next (placeReply f (resetBody f.payload (taken rest s)).1
      (resetBody f.payload (taken rest s)).2) :=
    congrArg Host.Outcome.next (handleRequest_body (q := resetForm) h hk hn rfl)
  rw [hexec]
  unfold resetBody
  refine ⟨fun hbad => ?_, fun scope hscope => ?_⟩
  · rw [scopeOfCode_none hbad]
    exact congrArg Host.Outcome.next (placeReply_replied f (.range 1) (taken rest s) fun _ => rfl)
  · rw [hscope, scopeOfCode_code]
    unfold placeReply
    rw [hk]
    rfl

/-! ## The common checks -/

/-- The kind and length of a command's requests are those of its form. -/
theorem requestForm_eq {c : Instr} {k : Byte} {n : Nat} (h : requestForm c = some (k, n)) :
    ∃ q, c.form = some q ∧ q.kind = k ∧ q.length = n := by
  cases c <;> cases h <;> exact ⟨_, rfl, rfl, rfl⟩

/-- Settles O34: the checks of the kind and of the length come first, and without a frame of its kind to take a command
does nothing. -/
theorem commonChecks : Obligations.CommonChecks := by
  refine ⟨fun s f rest h hk => ?unknown, fun c k n hc => ?kinds⟩
  case unknown =>
    have hnot : isRequestKind f.kind = false := by
      unfold isRequestKind
      rcases hk with hk | hk
      · rw [hk]; rfl
      · rw [Bool.and_eq_false_iff]
        exact .inr (decide_eq_false (by omega))
    refine (next_whenLive h.1 handleUnknown).trans (congrArg Host.Outcome.next ?_)
    unfold handleUnknown
    rw [takeable_of_mayTake h, dropFrame_of_mayTake h]
    dsimp only
    rw [if_neg (by rw [hnot]; decide)]
    exact placeReply_replied f (.refuse .unknown) (taken rest s) fun _ => rfl
  case kinds =>
    obtain ⟨q, hq, rfl, rfl⟩ := requestForm_eq hc
    have hexec := exec_of_form hq
    refine ⟨fun s f rest h hk hn => ?_, fun s f rest h hk => ?_, fun s h => ?_⟩
    · rw [hexec, handleRequest_length h hk hn]
    · rw [hexec, handleRequest_otherKind h hk]
    · rw [hexec, handleRequest_idle h]

end Sys2Proof.Machine

/-!
The Shot Engine's obligations (R60 to R72): a fire boundary at an engine, the working through of its list, the completion of
a shot; and the rating of a channel by its COUPLING results (R94 to R96, R100).
-/
namespace Sys2Proof.Machine

/-! ## A fire boundary at an engine -/

section Boundary
variable {s : State} {x : Side} {z : Int}

/-- R62, R63: an engine that is FIRING owes the step. -/
theorem engineBoundary_owes {f : Firing} (h : (s.se.get x).firing = some f) : engineBoundary x z s =
    s.setSe x { s.se.get x with firing := some { f with owed := f.owed + 1 } } := by
  unfold engineBoundary
  rw [h]
  exact State.modifyFiring_some h _

/-- R61, R64: with no due shot, or with the side not ARMED, the step's record is finished at once. -/
theorem engineBoundary_skips (h : (s.se.get x).firing = none)
    (hskip : (s.ps.active.get x).dueIndices z = [] ∨ (s.sc.get x).state ≠ .armed) : engineBoundary x z s =
    evaluateFinished x (s.setSe x ⟨none, [skipRecord .sideNotReady s.ps.generation (s.ps.active.get x) z]⟩) := by
  unfold engineBoundary
  rw [h]
  exact if_pos hskip

/-- R60, R61: otherwise the list of the step begins. -/
theorem engineBoundary_begins (h : (s.se.get x).firing = none) (ha : (s.sc.get x).state = .armed)
    (hdue : (s.ps.active.get x).dueIndices z ≠ []) : engineBoundary x z s =
    reachShots x ((s.ps.active.get x).dueIndices z) (s.setSe x
      ⟨some ⟨z, s.ps.generation, (s.ps.active.get x).dueIndices z, 0, none, [], 0⟩, []⟩) := by
  unfold engineBoundary
  rw [h]
  exact if_neg (not_or.2 ⟨hdue, fun hne => hne ha⟩)

/-- R65: a list that begins with an executable shot starts that shot. -/
theorem engineBoundary_starts {i : Nat} {rest : List Nat} {p : PlannedShot} (h : (s.se.get x).firing = none)
    (ha : (s.sc.get x).state = .armed) (hdue : (s.ps.active.get x).dueIndices z = i :: rest)
    (hp : (s.ps.active.get x).shots[i]? = some p) (he : (s.sc.get x).executable p.shot = true) : engineBoundary x z s =
    s.setSe x ⟨some ⟨z, s.ps.generation, i :: rest, 0,
      some ⟨i, s.now, p.duration, frontEndParams (s.sc.get x) p.shot⟩, [], 0⟩, []⟩ := by
  have hfiring : ∀ v : Firing, ((s.setSe x ⟨some v, []⟩).se.get x).firing = some v := fun v => by
    rw [State.setSe_se, PerSide.get_set_self]
  rw [engineBoundary_begins h ha (by rw [hdue]; exact List.cons_ne_nil i rest), hdue,
    reachShots_start (by exact hp) (by exact ha) (by exact he)]
  unfold startShot
  rw [State.modifyFiring_some (hfiring _), State.setSe_setSe, State.setSe_se, PerSide.get_set_self]
  rfl

end Boundary

/-- A due shot that is skipped adds its entry and moves the position on (R70, R71). -/
theorem modifyFiring_addEntry {s : State} {x : Side} {f : Firing} (h : (s.se.get x).firing = some f)
    (e : OutcomeEntry) : s.modifyFiring x (Firing.addEntry e) = s.setSe x { s.se.get x with firing := some { f with
      inFlight := none
      position := f.position + 1
      record := f.record ++ [e] } } := State.modifyFiring_some h _

/-- Settles O36: the engine's laws at a boundary, of its due shots, of its list, and of its finished records. -/
theorem engineAtBoundary : Obligations.EngineAtBoundary := by
  refine ⟨fun s x z => ?boundary, fun l z => ⟨dueIndices_ascending l z, fun i => ?due⟩, fun s x f hf => ?list,
    fun s x => ⟨evaluateFinished_nil, evaluateFinished_cons⟩⟩
  case boundary =>
    intro l
    refine ⟨fun f hf => engineBoundary_owes hf, fun hnone hskip => ⟨engineBoundary_skips hnone hskip, ?_⟩,
      fun i rest p hnone ha hdue hp he => engineBoundary_starts hnone ha hdue hp he,
      fun hnone ha hdue => engineBoundary_begins hnone ha hdue⟩
    rw [engineBoundary_skips hnone hskip]
    exact evaluateFinished_setSe_se s x (List.cons_ne_nil _ _)
  case due =>
    rw [mem_dueIndices]
    exact exists_congr fun p => and_congr_right fun _ => decide_eq_true_iff
  case list =>
    intro l owed skip
    refine ⟨⟨endOfList_some hf, endOfList_se hf⟩, fun i rest p hp => ⟨fun ha he => ?_, fun ha he => ?_, fun ha => ?_⟩⟩
    · rw [reachShots_start hp ha he]
      exact State.modifyFiring_some hf _
    · rw [reachShots_skip hp ha he, modifyFiring_addEntry hf]
      rfl
    · rw [reachShots_notArmed hp ha, modifyFiring_addEntry hf]
      rfl

/-! ## The completion of a shot -/

/-- R66, R70, R71: a completion carries out the outcome of its shot and goes on with the list. -/
theorem completeShot_inFlight {s : State} {x : Side} {load : LoadStatus} {trace : List Nat} {f : Firing} {fl : InFlight}
    {p : PlannedShot} (hf : (s.se.get x).firing = some f) (hfl : f.inFlight = some fl)
    (hp : (s.ps.active.get x).shots[fl.shot]? = some p) : completeShot x load trace s =
      let r := shotOutcome x load trace fl p (s.advanceTo (fl.start + fl.duration * 20))
      reachShots x (f.due.drop (f.position + 1))
        (r.2.modifyFiring x (Firing.addEntry ⟨fl.shot, p.shot.tx, p.shot.rx, r.1⟩)) := by
  unfold completeShot activeShot
  rw [hf]
  dsimp only
  rw [hfl]
  dsimp only
  rw [hp]
  rfl

theorem CouplingState.blocks_iff {c : CouplingState} : c.blocks = true ↔ c = .unproven ∨ c = .lost := by
  cases c <;> simp [CouplingState.blocks]

/-- Settles O37: the outcome of the shot by its load status, and for a good load by the coupling state of its receive
channel. -/
theorem shotCompletion : Obligations.ShotCompletion := by
  intro s x trace f fl p hlive hf hfl hp s0 goOn latched
  have hexec : ∀ load, exec (.shotCompletion x load trace) s = .next
      (goOn (shotOutcome x load trace fl p s0).1 (shotOutcome x load trace fl p s0).2) := fun load =>
    (next_whenLive hlive (completeShot x load trace)).trans
      (congrArg Host.Outcome.next (completeShot_inFlight hf hfl hp))
  refine ⟨hexec .openLoad, hexec .shorted, ?_⟩
  intro rs s1 state
  rw [hexec .good]
  have hgood : shotOutcome x .good trace fl p s0 = if state.blocks
      then (.completed true [], s1) else (.completed false (detectResults rs), s1) := rfl
  rw [hgood]
  by_cases hblocks : state = .unproven ∨ state = .lost
  · rw [if_pos (CouplingState.blocks_iff.2 hblocks), if_pos hblocks]
  · rw [if_neg (mt CouplingState.blocks_iff.1 hblocks), if_neg hblocks]

/-! ## The coupling rating -/

/-- Settles O38: the rows of R95's table, and the result with and without its event. -/
theorem couplingRating : Obligations.CouplingRating := by
  refine ⟨fun lose regain c => ?table, fun s x ch good => ?result⟩
  case table =>
    intro good bad
    unfold rate
    refine ⟨fun h => ?_, fun h => ?_, fun h => ?_⟩
    · rw [h]; exact ⟨rfl, rfl⟩
    · rcases h with h | h <;> rw [h] <;> exact ⟨rfl, rfl⟩
    · rw [h]; exact ⟨rfl, rfl⟩
  case result =>
    intro record r rated
    exact ⟨fun hquiet => couplingResult_quiet (Prod.ext rfl hquiet),
      fun e hevent => couplingResult_event (Prod.ext rfl hevent)⟩

end Sys2Proof.Machine

/-!
The Gate Evaluator's measurements (R78 to R90): the peak and the first crossing by recursion on the samples, the conditions,
the windows, and the results of a shot's gates.
-/
namespace Sys2Proof.Machine

/-! ## The peak -/

/-- `m` is the first greatest of these samples, the first of them at time of flight `t`. -/
def PeakAt (samples : List Nat) (t : Nat) (m : Measurement) : Prop :=
  t ≤ m.tof ∧ samples[m.tof - t]? = some m.peak ∧ (∀ v ∈ samples, v ≤ m.peak) ∧
    ∀ i v : Nat, i < m.tof - t → samples[i]? = some v → v < m.peak

theorem getElem?_cons_tof {v : Nat} {vs : List Nat} {t tof : Nat} (h : t + 1 ≤ tof) :
    (v :: vs)[tof - t]? = vs[tof - (t + 1)]? := by
  rw [show tof - t = tof - (t + 1) + 1 by omega]
  exact List.getElem?_cons_succ

/-- A peak of the later samples that exceeds the first sample is the peak of all. -/
theorem PeakAt.cons {v : Nat} {vs : List Nat} {t : Nat} {m : Measurement} (h : PeakAt vs (t + 1) m) (hv : v < m.peak) :
    PeakAt (v :: vs) t m := by
  obtain ⟨hle, hget, hmax, hfirst⟩ := h
  refine ⟨by omega, (getElem?_cons_tof hle).trans hget, List.forall_mem_cons.2 ⟨Nat.le_of_lt hv, hmax⟩, fun i w hi hw => ?_⟩
  cases i with
  | zero => exact Option.some.inj hw ▸ hv
  | succ i => exact hfirst i w (by omega) (List.getElem?_cons_succ ▸ hw)

/-- R84: the search keeps the best so far when no sample exceeds it, and finds the first greatest sample otherwise. -/
theorem peakFrom_spec : ∀ (vs : List Nat) (t : Nat) (best : Measurement),
    (peakFrom vs t best = best ∧ ∀ v ∈ vs, v ≤ best.peak) ∨
      (best.peak < (peakFrom vs t best).peak ∧ PeakAt vs t (peakFrom vs t best))
  | [], _, _ => .inl ⟨rfl, nofun⟩
  | v :: vs, t, best => by
    unfold peakFrom
    split
    case isTrue hbetter =>
      refine .inr ?_
      rcases peakFrom_spec vs (t + 1) ⟨v, t⟩ with ⟨heq, hmax⟩ | ⟨hgt, hpeak⟩
      · rw [heq]
        refine ⟨hbetter, Nat.le_refl t, ?_, List.forall_mem_cons.2 ⟨Nat.le_refl v, hmax⟩, fun i w hi => ?_⟩
        · rw [Nat.sub_self]; rfl
        · exact absurd hi (by simp)
      · exact ⟨Nat.lt_trans hbetter hgt, hpeak.cons hgt⟩
    case isFalse hnot =>
      rcases peakFrom_spec vs (t + 1) best with ⟨heq, hmax⟩ | ⟨hgt, hpeak⟩
      · exact .inl ⟨heq, List.forall_mem_cons.2 ⟨Nat.not_lt.1 hnot, hmax⟩⟩
      · exact .inr ⟨hgt, hpeak.cons (Nat.lt_of_le_of_lt (Nat.not_lt.1 hnot) hgt)⟩

/-- R84: a window's peak is its first greatest sample. -/
theorem measure_peakAt {samples : List Nat} {start : Nat} (h : samples ≠ []) :
    PeakAt samples start (measure samples start) := by
  rcases peakFrom_spec samples start ⟨0, start⟩ with ⟨heq, hmax⟩ | ⟨-, hpeak⟩
  · obtain ⟨v, vs, rfl⟩ := List.exists_cons_of_ne_nil h
    have hv : v = 0 := Nat.le_zero.1 (hmax v List.mem_cons_self)
    unfold measure
    rw [heq]
    refine ⟨Nat.le_refl start, ?_, hmax, fun i w hi => absurd hi (by simp)⟩
    rw [Nat.sub_self, hv]
    rfl
  · exact hpeak

/-! ## The first crossing -/

/-- R81: a crossing found is at the first sample that reaches the threshold. -/
theorem firstCrossing_some {threshold t : Nat} : ∀ {samples : List Nat} {start : Nat},
    firstCrossing samples start threshold = some t → start ≤ t ∧
      (∃ v, samples[t - start]? = some v ∧ threshold ≤ v) ∧
      ∀ i v : Nat, i < t - start → samples[i]? = some v → v < threshold
  | [], _, h => nomatch h
  | w :: ws, start, h => by
    unfold firstCrossing at h
    split at h
    case isTrue hreach =>
      obtain rfl := Option.some.inj h
      exact ⟨Nat.le_refl _, ⟨w, by rw [Nat.sub_self]; rfl, hreach⟩, fun i v hi => absurd hi (by simp)⟩
    case isFalse hbelow =>
      obtain ⟨hle, ⟨v, hv, hreach⟩, hfirst⟩ := firstCrossing_some h
      refine ⟨by omega, ⟨v, (getElem?_cons_tof hle).trans hv, hreach⟩, fun i u hi hu => ?_⟩
      cases i with
      | zero => exact Option.some.inj hu ▸ Nat.not_le.1 hbelow
      | succ i => exact hfirst i u (by omega) (List.getElem?_cons_succ ▸ hu)

theorem firstCrossing_none {threshold : Nat} : ∀ {samples : List Nat} {start : Nat},
    firstCrossing samples start threshold = none ↔ ∀ v ∈ samples, v < threshold
  | [], _ => iff_of_true rfl nofun
  | w :: ws, start => by
    rw [List.forall_mem_cons]
    unfold firstCrossing
    split
    case isTrue hreach => exact iff_of_false nofun fun both => absurd hreach (Nat.not_le.2 both.1)
    case isFalse hbelow => rw [firstCrossing_none, and_iff_right (Nat.not_le.1 hbelow)]

/-! ## Conditions, windows and results -/

theorem Condition.holds_spec (t1 t2 p : Nat) :
    (Condition.holds .above t1 t2 p = true ↔ t1 ≤ p) ∧ (Condition.holds .below t1 t2 p = true ↔ p < t1) ∧
    (Condition.holds .inside t1 t2 p = true ↔ t1 ≤ p ∧ p < t2) ∧
    (Condition.holds .outside t1 t2 p = true ↔ p < t1 ∨ t2 ≤ p) := by
  simp [Condition.holds]

theorem Gate.condition_of_code {g : Gate} {b : Byte} (h : g.conditionCode = b) :
    g.condition = (conditionOfCode b.toNat).getD .above := by
  unfold Gate.condition
  rw [h]

/-- A crossing's window is the gate's from its start (R80, R81). -/
theorem Gate.crossing_eq (trace : List Nat) (r : Gate) :
    r.crossing trace = firstCrossing ((trace.drop r.start).take r.width) r.start r.t1 := by
  unfold Gate.crossing window
  rw [Nat.add_sub_cancel_left]

/-- R79, R81: the crossing in force for a gate is that of the REFERENCE gate last before it. -/
theorem lastCrossing_eq (trace : List Nat) (gates : List Gate) : lastCrossing trace none gates =
    (gates.reverse.find? (fun r => decide (r.purpose = .reference))).bind
      (fun r => firstCrossing ((trace.drop r.start).take r.width) r.start r.t1) := by
  unfold lastCrossing
  cases gates.reverse.find? (fun r => decide (r.purpose = .reference)) with
  | none => rfl
  | some r => exact Gate.crossing_eq trace r

/-- The result of a gate by its purpose, with the crossing in force for it (R79). -/
theorem evaluateGates_get {trace : List Nat} {gates : List Gate} {n : Nat} {g : Gate} (h : gates[n]? = some g) :
    (evaluateGates trace gates)[n]? = some (g.result trace n (lastCrossing trace none (gates.take n))) := by
  obtain ⟨-, hget⟩ := evaluateFrom_get trace gates 0 none
  exact (hget n g h).trans (by rw [Nat.zero_add])

/-- Settles O39: the measurements, the conditions, the delivered trace, the windows and the results, each by its law. -/
theorem gateMeasurements : Obligations.GateMeasurements := by
  refine ⟨fun samples start h => measure_peakAt h, fun samples start threshold =>
    ⟨fun t h => firstCrossing_some h, firstCrossing_none⟩, Condition.holds_spec, fun trace n =>
    ⟨deliveredTrace_length trace n, fun t h => deliveredTrace_get trace h⟩, fun g =>
    ⟨Gate.condition_of_code, Gate.condition_of_code, Gate.condition_of_code, Gate.condition_of_code⟩,
    fun g trace crossing => ?windows, fun trace gates => ⟨(evaluateFrom_get trace gates 0 none).1, fun n g h => ?results⟩,
    rfl, rfl, fun n k c m rs => ⟨rfl, rfl, rfl, rfl, rfl, rfl, rfl, rfl⟩⟩
  case windows =>
    intro judged
    refine ⟨fun h => Gate.kind_absolute h trace crossing, fun h hnone => ?_, fun c h hsome => ?_⟩
    · rw [hnone, Gate.kind_follow_none h]
    · rw [hsome, Gate.kind_follow_some h]
      exact ⟨fun hbeyond => if_pos hbeyond, fun hplaced => if_neg (Nat.not_le.2 hplaced)⟩
  case results =>
    have hget := evaluateGates_get (trace := trace) h
    rw [lastCrossing_eq] at hget
    unfold Gate.result at hget
    refine ⟨fun hp => ?_, fun hp => ?_, fun hp => ?_⟩
    · rw [hp, Gate.crossing_eq] at hget
      exact hget
    · rw [hp] at hget
      exact hget
    · rw [hp] at hget
      exact hget

end Sys2Proof.Machine

/-!
Step evaluation (R108 to R115, R120, R144): what a gate does by its class, the closing test of an entry, and the evaluation of
a record by the tracker and the Gap Recorder.
-/
namespace Sys2Proof.Machine

/-! ## One gate -/

section Gate
variable {t : It} {c : EvalContext} {e : OutcomeEntry} {g : Nat}

theorem It.applyGate_masked (h : c.verdict.outcomes[e.rx] = .masked) : t.applyGate c e g = (t, false) := by
  have hclass : gateClass c.verdict.outcomes[e.rx] e g = .masked := if_pos h
  unfold It.applyGate
  rw [hclass]

theorem It.applyGate_skipped (h : gateClass c.verdict.outcomes[e.rx] e g = .skipped) :
    (t.findOpen c.side e.shot g = none → t.applyGate c e g = (t, false)) ∧
    ∀ (i : Fin 64) (a : Indication) (run : Nat), t.findOpen c.side e.shot g = some (i, a, run) →
      t.applyGate c e g =
        (t.setEntry i (.opened { a with flags := { a.flags with interrupted := true } } (run + 1)), false) := by
  unfold It.applyGate
  rw [h]
  exact ⟨fun hnone => by rw [hnone], fun i a run hsome => by rw [hsome]⟩

theorem It.applyGate_miss (h : gateClass c.verdict.outcomes[e.rx] e g = .miss) :
    (t.findOpen c.side e.shot g = none → t.applyGate c e g = (t, false)) ∧
    ∀ (i : Fin 64) (a : Indication) (run : Nat), t.findOpen c.side e.shot g = some (i, a, run) →
      t.applyGate c e g = (t.setEntry i (.opened a (run + 1)), false) := by
  unfold It.applyGate
  rw [h]
  exact ⟨fun hnone => by rw [hnone], fun i a run hsome => by rw [hsome]⟩

/-- R109: a hit extends the OPEN indication of its key. -/
theorem It.applyGate_extends {m : Measurement} {i : Fin 64} {a : Indication} {run : Nat}
    (h : gateClass c.verdict.outcomes[e.rx] e g = .hit m) (hopen : t.findOpen c.side e.shot g = some (i, a, run)) :
    t.applyGate c e g = (t.setEntry i (.opened (a.extend c.step m c.verdict.outcomes[e.rx]) 0), false) := by
  unfold It.applyGate
  rw [h]
  dsimp only
  rw [hopen]

/-- R106, R110: a hit without one claims an entry for a new indication, or is refused. -/
theorem It.applyGate_claims {m : Measurement} (h : gateClass c.verdict.outcomes[e.rx] e g = .hit m)
    (hnone : t.findOpen c.side e.shot g = none) :
    (∀ i : Fin 64, t.claim c.side = some i → t.applyGate c e g =
      (t.setEntry i (.opened (.start c.side e g c.generation c.step m c.verdict.outcomes[e.rx]) 0), false)) ∧
    (t.claim c.side = none → t.applyGate c e g = (t, true)) := by
  unfold It.applyGate
  rw [h]
  dsimp only
  rw [hnone]
  exact ⟨fun i hi => by dsimp only; rw [hi], fun hi => by dsimp only; rw [hi]⟩

end Gate

/-- R109: the extended indication, field by field. -/
theorem Indication.extend_eq (a : Indication) (step : Int) (m : Measurement) (z : ZoneOutcome) : a.extend step m z =
    { a with
      last := step
      hits := a.hits + 1
      peak := if a.peak < m.peak then m.peak else a.peak
      peakStep := if a.peak < m.peak then step else a.peakStep
      peakTof := if a.peak < m.peak then m.tof else a.peakTof
      tofMin := min a.tofMin m.tof
      tofMax := max a.tofMax m.tof
      zoneKind := if a.zoneKind.isSome then a.zoneKind else z.kind?
      flags := { a.flags with saturated := a.flags.saturated || decide (m.peak = 200) } } := by
  unfold Indication.extend
  cases a.zoneKind <;> rfl

/-! ## The closing test -/

section CloseTest
variable {hwm z : Int} {x : Side} {k : Track} {i : Fin 64} {a : Indication} {run : Nat}

theorem Track.closeTest_opened (h : k.it.table[i] = .opened a run) (hx : a.side = x) : k.closeTest hwm x z i =
    if k.it.settings.bridge < run then k.close hwm i a
    else if (k.it.settings.maxLength : Int) ≤ z - a.first + 1 then
      k.close hwm i { a with flags := { a.flags with long := true } }
    else k := by
  unfold Track.closeTest
  rw [h]
  exact if_pos hx

/-- R113: an entry that is not OPEN for the side is left. -/
theorem Track.closeTest_other (h : ∀ (a : Indication) (run : Nat), k.it.table[i] = .opened a run → a.side ≠ x) :
    k.closeTest hwm x z i = k := by
  unfold Track.closeTest
  split
  case h_1 a run heq => exact if_neg (h a run heq)
  case h_2 | h_3 => rfl

end CloseTest

/-! ## The record -/

/-- R144: the channel set of a cause at a step. -/
theorem stepCause_eq (entries : List OutcomeEntry) (full : Mask) : stepCause entries full =
    fun c : GapCause => if c = .tableFull then full
      else entries.foldl (fun m e => if e.outcome.cause? = some c then m ||| e.channels else m) 0#12 := by
  funext c
  cases c <;> rfl

theorem State.nextVerdict_cons {s : State} {x : Side} {v : Verdict} {vs : List Verdict}
    (h : s.it.verdicts.get x = v :: vs) (z : Int) : s.nextVerdict x z = v := by
  unfold State.nextVerdict
  rw [h]
  rfl

/-- R72, R108, R120, R144: a record is applied to the table, its verdict is removed, and its causes reach the recorder. -/
theorem stepEvaluation_cons {s : State} {x : Side} {r : StepRecord} {rest : List StepRecord} {v : Verdict}
    {vs : List Verdict} {k : Track × Mask} {g : Recorder} (hr : (s.se.get x).finished = r :: rest)
    (hv : s.it.verdicts.get x = v :: vs)
    (hk : s.track.evaluate s.du.hwm ⟨x, r.step, s.ps.generation, v⟩ (s.ps.active.get x) r.entries = k)
    (hg : Recorder.evaluate x r.step (stepCause r.entries k.2) ⟨s.gr.get x, k.1.li⟩ = g) :
    stepEvaluation x s =
      { s with
        it := { k.1.it with verdicts := k.1.it.verdicts.set x (k.1.it.verdicts.get x).tail }
        li := g.li
        gr := s.gr.set x g.gr
        se := s.se.set x (if rest = [] then ⟨none, []⟩ else ⟨(s.se.get x).firing, rest⟩) } := by
  have hnext := State.nextVerdict_cons hv r.step
  unfold stepEvaluation
  rw [hr]
  dsimp only
  rw [hnext, hk]
  unfold State.recorder
  dsimp only [State.setTrack_gr, State.setTrack_li]
  rw [hg]
  cases rest <;> rfl

/-- An evaluation changes of the tracker only the table. -/
theorem Track.evaluate_verdicts (hwm : Int) (c : EvalContext) (l : ShotList) (entries : List OutcomeEntry) (k : Track) :
    (k.evaluate hwm c l entries).1.it.verdicts = k.it.verdicts :=
  (Track.evaluate_tableOnly hwm c l entries k).verdicts

/-- R108, R113: the gates of the record in their order, then the closing tests. -/
theorem Track.evaluate_eq (hwm : Int) (c : EvalContext) (l : ShotList) (entries : List OutcomeEntry) (k : Track) :
    k.evaluate hwm c l entries =
      let p := (entries.flatMap (fun e => (l.detectGates e.shot).map (fun g => (e, g)))).foldl
        (fun p q => ((p.1.applyGate c q.1 q.2).1, if (p.1.applyGate c q.1 q.2).2 then p.2 ||| q.1.channels else p.2))
        (k.it, 0#12)
      (allEntries.foldl (Track.closeTest hwm c.side c.step) ⟨p.1, k.li⟩, p.2) := by
  unfold Track.evaluate
  rw [It.applyEntries_eq]
  rfl

/-- The DETECT gates of a shot of a list. -/
theorem ShotList.detectGates_eq (l : ShotList) (i : Nat) : l.detectGates i = match l.shots[i]? with
    | none => []
    | some p => (p.shot.gates.zipIdx.filter (fun q : Gate × Nat => q.1.purpose = GatePurpose.detect)).map Prod.snd := by
  unfold ShotList.detectGates
  cases l.shots[i]? <;> rfl

namespace Settled

/-- Settles O40: the evaluation of a record, and each operation of it by its own law. -/
theorem stepEvaluation : Obligations.StepEvaluation := by
  refine ⟨fun s x r rest v vs hlive hr hv => ?record, fun hwm c l entries k => ?evaluate, fun t c e g => ?gate,
    fun t x shot gate => ?key, fun hwm z x k i => ?closing⟩
  case record =>
    intro k causes g engine
    have hcauses : causes = stepCause r.entries k.2 := (stepCause_eq r.entries k.2).symm
    have hk : s.track.evaluate s.du.hwm ⟨x, r.step, s.ps.generation, v⟩ (s.ps.active.get x) r.entries = k := rfl
    have hg : Recorder.evaluate x r.step (stepCause r.entries k.2) ⟨s.gr.get x, k.1.li⟩ = g := by rw [← hcauses]
    clear_value g causes k
    have hverdicts : k.1.it.verdicts.get x = v :: vs := by
      rw [← hk, Track.evaluate_verdicts]
      exact hv
    exact ⟨stepEvaluation_cons hr hv hk hg, next_whenLive hlive (fun s => drainTest (Machine.stepEvaluation x s)), hverdicts⟩
  case evaluate =>
    rw [Track.evaluate_eq]
    simp only [ShotList.detectGates_eq]
    rfl
  case gate =>
    intro z found opened kind
    have hkind : z.kind? = kind := by
      show z.kind? = match z with | .tagged n => some n | .clear => none | .masked => none
      cases z <;> rfl
    refine ⟨It.applyGate_masked, fun hz hskip => It.applyGate_skipped (gateClass_skipped hz hskip),
      fun rs hz hout => ⟨fun hmiss => It.applyGate_miss (gateClass_miss hz hout hmiss), fun m hhit => ⟨?_, ?_⟩⟩⟩
    · intro i a run hopen
      rw [It.applyGate_extends (gateClass_hit hz hout hhit) hopen, Indication.extend_eq, hkind]
      rfl
    · intro hnone
      obtain ⟨hclaim, hrefused⟩ := It.applyGate_claims (gateClass_hit hz hout hhit) hnone
      refine ⟨fun i hi => ?_, hrefused⟩
      rw [hclaim i hi, ← hkind]
      rfl
  case key =>
    intro ofKey used
    have hused : t.usedBy x = used := It.usedBy_eq t x
    rw [← hused]
    exact ⟨fun i a run h => It.findOpen_some h, It.findOpen_none, fun i => It.claim_some, It.claim_none⟩
  case closing =>
    refine ⟨fun a run hopen hx => ?_, Track.closeTest_other, fun a => ⟨fun hfew => if_pos hfew, fun hmany => if_neg (Nat.not_lt.2 hmany)⟩⟩
    rw [Track.closeTest_opened hopen hx]
    refine ⟨fun hrun => if_pos hrun, fun hrun hlong => ?_, fun hrun hshort => ?_⟩
    · rw [if_neg (Nat.not_lt.2 hrun), if_pos hlong]
    · rw [if_neg (Nat.not_lt.2 hrun), if_neg (Int.not_le.2 hshort)]

end Settled

end Sys2Proof.Machine

/-!
The Gap Recorder's obligation (R143 to R151): the open gaps after a step evaluation and the closed gaps in the GAP slot; and
the swap and the channel records at a boundary (R31, R55, R58, R99, R116).
-/
namespace Sys2Proof.Machine

/-! ## The open gaps -/

theorem Gr.present_get (step : Int) (causes : GapCause → Mask) (g : Gr) (d c : GapCause) :
    (g.present step causes d).gaps.get c =
      if c = d ∧ causes d ≠ 0 then some (extendGap step (causes d) (g.gaps.get d)) else g.gaps.get c := by
  unfold Gr.present
  by_cases hd : causes d = 0
  · rw [if_pos hd, if_neg (fun both => both.2 hd)]
  · rw [if_neg hd, PerCause.get_set]
    by_cases hc : c = d
    · rw [if_pos hc, if_pos ⟨hc, hd⟩]
    · rw [if_neg hc, if_neg (fun both => hc both.1)]

theorem present_foldl_keeps {step : Int} {causes : GapCause → Mask} {c : GapCause} :
    ∀ {cs : List GapCause} {g : Gr}, c ∉ cs → (cs.foldl (Gr.present step causes) g).gaps.get c = g.gaps.get c
  | [], _, _ => rfl
  | d :: cs, g, hnot => by
    have hne : c ≠ d := fun heq => hnot (heq ▸ List.mem_cons_self)
    rw [List.foldl_cons, present_foldl_keeps (fun hc => hnot (List.mem_cons_of_mem d hc)), Gr.present_get,
      if_neg (fun both => hne both.1)]

/-- R145: taking each cause of a list once extends the gaps of those that are present. -/
theorem present_foldl_get {step : Int} {causes : GapCause → Mask} {c : GapCause} (h : causes c ≠ 0) :
    ∀ {cs : List GapCause} {g : Gr}, cs.Nodup → c ∈ cs →
      (cs.foldl (Gr.present step causes) g).gaps.get c = some (extendGap step (causes c) (g.gaps.get c))
  | [], _, _, hc => nomatch hc
  | d :: cs, g, hcs, hc => by
    obtain ⟨hd, hcs'⟩ := List.nodup_cons.1 hcs
    rw [List.foldl_cons]
    rcases List.mem_cons.1 hc with rfl | hlater
    · rw [present_foldl_keeps hd, Gr.present_get, if_pos ⟨rfl, h⟩]
    · have hne : c ≠ d := fun heq => hd (heq ▸ hlater)
      rw [present_foldl_get h hcs' hlater, Gr.present_get, if_neg (fun both => hne both.1)]

theorem Recorder.closeGap_get (x : Side) (drain : Bool) (r : Recorder) (d c : GapCause) :
    (r.closeGap x drain d).gr.gaps.get c = if c = d then none else r.gr.gaps.get c := by
  unfold Recorder.closeGap
  cases hd : r.gr.gaps.get d with
  | none =>
    by_cases hc : c = d
    · rw [if_pos hc, hc, hd]
    · rw [if_neg hc]
  | some g => exact PerCause.get_set _ _ _ _

/-- R146, R151: closing the gaps of the causes of a list that a test names. -/
theorem closeGaps_get (x : Side) (drain : Bool) (which : GapCause → Bool) (c : GapCause) :
    ∀ (cs : List GapCause) (r : Recorder),
      (cs.foldl (fun r d => if which d then r.closeGap x drain d else r) r).gr.gaps.get c =
        if c ∈ cs ∧ which c = true then none else r.gr.gaps.get c
  | [], r => (if_neg (fun both => nomatch both.1)).symm
  | d :: cs, r => by
    rw [List.foldl_cons, closeGaps_get x drain which c cs]
    by_cases hd : which d = true
    · rw [if_pos hd, Recorder.closeGap_get]
      by_cases hc : c = d
      · rw [if_pos hc, ite_self, if_pos ⟨hc ▸ List.mem_cons_self, hc ▸ hd⟩]
      · rw [if_neg hc]
        simp only [List.mem_cons, hc, false_or]
    · rw [if_neg hd]
      by_cases hc : c = d
      · rw [if_neg (fun both => hd (hc ▸ both.2)), if_neg (fun both => hd (hc ▸ both.2))]
      · simp only [List.mem_cons, hc, false_or]

theorem mem_gapCauses (c : GapCause) : c ∈ gapCauses := by cases c <;> decide

/-- R145, R146: the gap of a cause after a step evaluation. -/
theorem Recorder.evaluate_get (x : Side) (step : Int) (causes : GapCause → Mask) (r : Recorder) (c : GapCause) :
    (r.evaluate x step causes).gr.gaps.get c =
      if causes c = 0 then none else some (extendGap step (causes c) (r.gr.gaps.get c)) := by
  have hfold := closeGaps_get x false (fun d => decide (causes d = 0)) c gapCauses
    { r with gr := gapCauses.foldl (Gr.present step causes) r.gr }
  simp only [decide_eq_true_eq] at hfold
  refine hfold.trans ?_
  by_cases hc : causes c = 0
  · rw [if_pos ⟨mem_gapCauses c, hc⟩, if_pos hc]
  · rw [if_neg (fun both => hc both.2), if_neg hc]
    exact present_foldl_get hc (by decide) (mem_gapCauses c)

theorem Recorder.drain_get (x : Side) (r : Recorder) (c : GapCause) : (r.drain x).gr.gaps.get c = none := by
  have hfold := closeGaps_get x true (fun _ => true) c gapCauses r
  simp only [if_true, and_true] at hfold
  exact hfold.trans (if_pos (mem_gapCauses c))

/-! ## The GAP slot -/

theorem GapReport.add_few {r : GapReport} {g : GapRange} (h : r.ranges.length < 8) : r.add g = ⟨r.ranges ++ [g]⟩ :=
  if_pos h

theorem GapReport.add_full {r : GapReport} {g : GapRange} (h : 8 ≤ r.ranges.length) : r.add g = ⟨mergeLast r.ranges g⟩ :=
  if_neg (Nat.not_lt.2 h)

section Place
variable {l : Li} {x : Side} {g : GapRange}

theorem Li.placeGap_empty (h : l.gap.get x = none) : l.placeGap x g =
    { l with gap := l.gap.set x (some ⟨l.ordinal, ⟨[g]⟩⟩), ordinal := l.ordinal + 1 } := by
  unfold Li.placeGap
  rw [h]

theorem Li.placeGap_appends {p : Pending GapReport} (h : l.gap.get x = some p) (hlen : p.report.ranges.length < 8) :
    l.placeGap x g = { l with gap := l.gap.set x (some ⟨p.ordinal, ⟨p.report.ranges ++ [g]⟩⟩) } := by
  unfold Li.placeGap
  rw [h]
  dsimp only
  rw [GapReport.add_few hlen]

theorem Li.placeGap_merges {p : Pending GapReport} (h : l.gap.get x = some p) (hlen : 8 ≤ p.report.ranges.length) :
    l.placeGap x g = { l with gap := l.gap.set x (some ⟨p.ordinal, ⟨mergeLast p.report.ranges g⟩⟩) } := by
  unfold Li.placeGap
  rw [h]
  dsimp only
  rw [GapReport.add_full hlen]

end Place

theorem drainGaps_li (x : Side) (s : State) : (drainGaps x s).li =
    (gapCauses.filterMap (fun c => ((s.gr.get x).gaps.get c).map (fun g => g.range c true))).foldl
      (fun l g => l.placeGap x g) s.li := Recorder.drain_li x (s.recorder x)

/-- R151: the closing of a side's gaps changes its recorder and the link. -/
theorem drainGaps_parts (x : Side) (s : State) :
    drainGaps x s = { s with gr := s.gr.set x ((drainGaps x s).gr.get x), li := (drainGaps x s).li } := by
  unfold drainGaps
  rw [State.setRecorder_gr, PerSide.get_set_self, State.setRecorder_li]
  rfl

/-- R151: both sides' gaps are closed, one side after the other. -/
theorem drainBothGaps_eq (s : State) : ∃ (y : Side) (n : Nat),
    drainBothGaps s = { drainGaps (otherSide y) (drainGaps y s) with free := n } := by
  unfold drainBothGaps
  split
  · split
    · exact ⟨.a, _, rfl⟩
    · exact ⟨.b, _, rfl⟩
  · exact ⟨.a, s.free, rfl⟩

/-- Settles O41: the gaps of a recorder after an evaluation, the GAP slot by its contents, and the drain's closing. -/
theorem gapsAfterEvaluation : Obligations.GapsAfterEvaluation := by
  unfold Obligations.GapsAfterEvaluation
  intro bit ascending
  have hbit : ∀ c : GapCause, c.bit = bit c := fun c => by cases c <;> rfl
  refine ⟨fun r x z causes => ⟨fun c => ?opened, ?closed⟩, fun l x g => ⟨Li.placeGap_empty, fun p => Li.placeGap_appends,
    fun p before last h hlast hlen => ?merge⟩, fun s x => ⟨fun c => ?none, ?drained, drainBothGaps_eq s⟩⟩
  case opened =>
    rw [Recorder.evaluate_get]
    refine ⟨fun hc => if_pos hc, fun hc hnone => ?_, fun g hc hsome => ?_⟩
    · rw [if_neg hc, hnone]; rfl
    · rw [if_neg hc, hsome]; rfl
  case closed =>
    rw [Recorder.evaluate_li]
    simp only [Gap.range, hbit]
    rfl
  case merge =>
    rw [Li.placeGap_merges h hlen, hlast, mergeLast_append]
    rfl
  case none =>
    unfold drainGaps
    rw [State.setRecorder_gr, PerSide.get_set_self]
    exact Recorder.drain_get x _ c
  case drained =>
    have hli := drainGaps_li x s
    simp only [Gap.range, hbit] at hli
    exact (drainGaps_parts x s).trans (by rw [hli]; rfl)

end Sys2Proof.Machine

/-!
The swap and the channel records at a boundary (R31, R55, R58, R99, R116).
-/
namespace Sys2Proof.Machine

/-! ## The swap at a boundary -/

/-- R55, R58, R116: a pending swap at the boundary under way with both engines IDLE. -/
theorem planSwapAtBoundary_swaps {s : State} {z : Int} (hb : s.boundary = some z) (hp : s.ps.swapPending = true)
    (hi : enginesIdle s = true) : planSwapAtBoundary s = placeRunstate causeSwap (some (z, .boundary))
      ((swapPlans s).setTrack ((swapPlans s).track.closeAll (swapPlans s).du.hwm markPlanChange)) := by
  unfold planSwapAtBoundary
  rw [hb]
  dsimp only
  rw [if_pos ⟨hp, hi⟩]

theorem planSwapAtBoundary_stays {s : State} (h : s.boundary = none ∨ s.ps.swapPending = false ∨ enginesIdle s = false) :
    planSwapAtBoundary s = s := by
  unfold planSwapAtBoundary
  split
  case h_1 => rfl
  case h_2 z hb =>
    refine if_neg fun both => ?_
    obtain ⟨hp, hi⟩ := both
    rcases h with h | h | h
    · rw [h] at hb; cases hb
    · rw [h] at hp; cases hp
    · rw [h] at hi; cases hi

/-! ## Channel records -/

theorem recordTakesEffect_some {s : State} {x : Side} {ch : Channel} {r : ChannelRecord}
    (h : (s.sc.get x).pendingRecords[ch] = some r) : recordTakesEffect x s ch = (s.modifySc x (fun sc =>
      { sc with channels := sc.channels.set ch r, pendingRecords := sc.pendingRecords.set ch none })).setCs x
        ((s.cs.get x).refresh ch) := by
  unfold recordTakesEffect
  rw [h]
  rfl

theorem recordTakesEffect_none {s : State} {x : Side} {ch : Channel}
    (h : (s.sc.get x).pendingRecords[ch] = none) : recordTakesEffect x s ch = s := by
  unfold recordTakesEffect
  rw [h]

theorem recordMoment_iff {s : State} : recordMoment s = true ↔ s.rc.run = .idle ∨ s.boundary.isSome = true := by
  unfold recordMoment
  rw [Bool.or_eq_true, decide_eq_true_eq]

/-- R116, R117: closing all is closing each OPEN entry in its turn. -/
theorem Track.closeAll_eq (hwm : Int) (mark : IndicationFlags → IndicationFlags) (k : Track) :
    k.closeAll hwm mark = (List.finRange 64).foldl (fun k i => match k.it.table[i] with
      | .opened a _ => k.close hwm i { a with flags := mark a.flags }
      | .free => k
      | .held _ _ => k) k := by
  have hstep : Track.closeWith hwm mark = fun k i => match k.it.table[i] with
      | .opened a _ => k.close hwm i { a with flags := mark a.flags }
      | .free => k
      | .held _ _ => k := by
    funext k i
    unfold Track.closeWith
    cases k.it.table[i] <;> rfl
  unfold Track.closeAll
  rw [hstep]
  rfl

/-- What the records of one side do to it: all that the law of the pending records says of one side. -/
theorem RecordsTaken.side_law {x : Side} {s t : State} (h : RecordsTaken x allChannels s t) :
    t.sc.get x = { s.sc.get x with
        channels := (t.sc.get x).channels, pendingRecords := (t.sc.get x).pendingRecords } ∧
      (t.cs.get x).supervised = (s.cs.get x).supervised ∧
      ∀ ch : Channel, (t.sc.get x).pendingRecords[ch] = none ∧
        (∀ r : ChannelRecord, (s.sc.get x).pendingRecords[ch] = some r →
          (t.sc.get x).channels[ch] = r ∧
          (t.cs.get x).ratings[ch] =
            if (s.cs.get x).supervised.getLsbD ch.val then ⟨.unproven, 0, 0⟩ else ⟨.unsupervised, 0, 0⟩) ∧
        ((s.sc.get x).pendingRecords[ch] = none →
          (t.sc.get x).channels[ch] = (s.sc.get x).channels[ch] ∧
          (t.cs.get x).ratings[ch] = (s.cs.get x).ratings[ch]) := by
  have hall : ∀ ch : Channel, ch ∈ allChannels := List.mem_finRange
  refine ⟨h.side, h.supervised, fun ch => ⟨h.gone ch (hall ch), h.taken ch (hall ch), fun hnone => ?_⟩⟩
  obtain ⟨-, hchannel, hrating⟩ := h.kept ch (.inr hnone)
  exact ⟨hchannel, hrating⟩

/-- Settles O42: the swap and its conditions; a record at its moment; the closing of all; and all records together. -/
theorem swapAndRecordAtBoundary : Obligations.SwapAndRecordAtBoundary := by
  refine ⟨fun s z hlive hb hp hi => ?swaps, fun s h => next_fixed (planSwapAtBoundary_stays h),
    fun s hlive => next_whenLive hlive planSwapAtBoundary, fun s x ch r hlive hmoment hr => ?takes,
    fun s x ch h => ?waits, Track.closeAll_eq, fun s => ?all⟩
  case swaps =>
    exact (next_whenLive hlive planSwapAtBoundary).trans
      (congrArg Host.Outcome.next (planSwapAtBoundary_swaps hb hp hi))
  case takes =>
    refine (next_whenLive hlive (fun s => if recordMoment s then recordTakesEffect x s ch else s)).trans ?_
    rw [if_pos (recordMoment_iff.2 hmoment), recordTakesEffect_some hr]
    rfl
  case waits =>
    refine next_fixed (f := fun s => if recordMoment s then recordTakesEffect x s ch else s) ?_
    rcases h with ⟨hrun, hb⟩ | hnone
    · refine if_neg fun hm => ?_
      rcases recordMoment_iff.1 hm with hidle | hsome
      · exact hrun hidle
      · rw [hb] at hsome; cases hsome
    · rw [recordTakesEffect_none hnone, ite_self]
  case all =>
    obtain ⟨v, c, hframe, -⟩ := recordsTakeEffect_frame s
    obtain ⟨u, ha, hb⟩ := recordsTakeEffect_taken s
    refine ⟨by rw [hframe], fun x => ?_⟩
    cases x with
    | a =>
      obtain ⟨hsc, hcs⟩ := hb.other (y := .a) (by decide)
      rw [hsc, hcs]
      exact ha.side_law
    | b =>
      obtain ⟨hsc, hcs⟩ := ha.other (y := .b) (by decide)
      have hlaw := hb.side_law
      rw [hsc, hcs] at hlaw
      exact hlaw

end Sys2Proof.Machine

/-!
The steps of the drain (R135, R138, R151, R176, R178, R179): the release of the front cluster, the end of the drain with its
RUNSTATE report and its gaps, and the beginning of a stop.
-/
namespace Sys2Proof.Machine

/-! ## The release of a cluster -/

/-- R135: the entries of the cluster become FREE, and its report joins the flaw queue. -/
theorem Track.release_eq (hwm : Int) (h : Fin 64) (i : Indication) (c : Cluster) (k : Track) : k.release hwm h i c =
    ⟨{ k.it with table := Vector.ofFn (fun j =>
        if j = h ∨ (k.it.table[j]).memberOf h = true then .free else k.it.table[j]) },
      { k.li with
        flawQueue := k.li.flawQueue ++ [⟨k.li.ordinal, k.it.flawReport hwm h i c⟩]
        ordinal := k.li.ordinal + 1 }⟩ := by
  unfold Track.release It.mapTable
  simp only [Bool.or_eq_true, decide_eq_true_eq]
  rfl

theorem State.setTrack_track (s : State) : s.setTrack s.track = s := rfl

/-- CLUSTER_RELEASE releases the front cluster, and then the drain may end. -/
theorem exec_clusterRelease {s : State} (h : live s) :
    exec .clusterRelease s = .next (drainEndTest (s.setTrack (s.track.releaseFront s.du.hwm))) :=
  next_whenLive h (fun s => drainEndTest (s.setTrack (s.track.releaseFront s.du.hwm)))

theorem releaseFront_front {s : State} {h : Fin 64} {i : Indication} {c : Cluster} (hf : s.it.front = some (h, i, c))
    (hq : s.li.flawQueue.length < 24) :
    s.setTrack (s.track.releaseFront s.du.hwm) = s.setTrack (s.track.release s.du.hwm h i c) := by
  rw [Track.releaseFront_some (k := s.track) hf hq]

theorem releaseFront_waits {s : State} (h : s.it.front = none ∨ 24 ≤ s.li.flawQueue.length) :
    s.setTrack (s.track.releaseFront s.du.hwm) = s := by
  rw [Track.releaseFront_stuck (k := s.track) h, State.setTrack_track]

/-! ## The gaps and the report at the end of the drain -/

theorem drainGaps_get (x y : Side) (s : State) (c : GapCause) :
    ((drainGaps x s).gr.get y).gaps.get c = if y = x then none else (s.gr.get y).gaps.get c := by
  unfold drainGaps
  rw [State.setRecorder_gr, PerSide.get_set]
  split
  · exact Recorder.drain_get x _ c
  · rfl

theorem drainBothGaps_get (s : State) (x : Side) (c : GapCause) : ((drainBothGaps s).gr.get x).gaps.get c = none := by
  obtain ⟨y, n, heq⟩ := drainBothGaps_eq s
  rw [heq]
  show ((drainGaps (otherSide y) (drainGaps y s)).gr.get x).gaps.get c = none
  rw [drainGaps_get, drainGaps_get]
  cases x <;> cases y <;> rfl

@[simp] theorem placeRunstate_gr (c : RunCauses) (w : Option (Int × SwapPlace)) (s : State) :
    (placeRunstate c w s).gr = s.gr := State.setLi_gr s _

theorem drainEnd_gr (s : State) : (drainEnd s).gr = (drainBothGaps s).gr := by
  rw [drainEnd_eq, placeRunstate_gr]
  obtain ⟨v, c, hrecords, -⟩ := recordsTakeEffect_frame (if s.ps.swapPending = true
    then swapPlans { drainBothGaps s with rc := { s.rc with run := .idle, drain := .none } }
    else { drainBothGaps s with rc := { s.rc with run := .idle, drain := .none } })
  rw [hrecords]
  show (if s.ps.swapPending = true then swapPlans _ else _).gr = _
  split
  · obtain ⟨b, c, l, hswap, -⟩ := swapPlans_frame
      { drainBothGaps s with rc := { s.rc with run := .idle, drain := .none } }
    rw [hswap]
  · rfl

/-- R58, R180: the RUNSTATE report after a trigger holds its causes and the values of the moment. -/
theorem placeRunstate_report (causes : RunCauses) (w : Option (Int × SwapPlace)) (s : State) :
    ∃ p, (placeRunstate causes w s).li.runstate = some p ∧ (causes.idle = true → p.report.causes.idle = true) ∧
      (causes.swap = true → p.report.causes.swap = true) ∧ p.report.run = s.rc.run ∧ p.report.cause = s.rc.cause ∧
      p.report.generation = s.ps.generation ∧
      ∀ step place, w = some (step, place) → p.report.swapStep = step ∧ p.report.swapPlace = place := by
  unfold placeRunstate Li.placeRunstate
  rw [State.setLi_li]
  cases s.li.runstate with
  | none => exact ⟨_, rfl, id, id, rfl, rfl, rfl, fun step place hw => by rw [hw]; exact ⟨rfl, rfl⟩⟩
  | some p =>
    refine ⟨_, rfl, fun h => ?_, fun h => ?_, rfl, rfl, rfl, fun step place hw => by rw [hw]; exact ⟨rfl, rfl⟩⟩
    · exact Bool.or_eq_true_iff.2 (.inr h)
    · exact Bool.or_eq_true_iff.2 (.inr h)

/-- R179: what the report of the end of the drain says. -/
theorem drainEnd_report (s : State) : ∃ p, (drainEnd s).li.runstate = some p ∧ p.report.causes.idle = true ∧
    p.report.run = .idle ∧ p.report.cause = s.rc.cause ∧ p.report.generation = (drainEnd s).ps.generation ∧
    (s.ps.swapPending = true → p.report.causes.swap = true ∧ p.report.swapStep = s.du.hwm ∧
      p.report.swapPlace = .idleEntry) := by
  obtain ⟨_, _, _, _, _, _, _, hframe, -⟩ := drainEnd_frame s
  have hrc := congrArg State.rc hframe
  have hps : (drainEnd s).ps = _ := congrArg State.ps hframe
  rw [drainEnd_eq] at hrc ⊢
  generalize recordsTakeEffect (if s.ps.swapPending = true
    then swapPlans { drainBothGaps s with rc := { s.rc with run := .idle, drain := .none } }
    else { drainBothGaps s with rc := { s.rc with run := .idle, drain := .none } }) = u at hrc ⊢
  obtain ⟨p, hp, hidle, hswap, hrun, hcause, hgeneration, hplace⟩ := placeRunstate_report
    ⟨false, false, true, s.ps.swapPending, false⟩
    (if s.ps.swapPending = true then some (s.du.hwm, SwapPlace.idleEntry) else none) u
  rw [placeRunstate_rc] at hrc
  refine ⟨p, hp, hidle rfl, hrun.trans (by rw [hrc]), hcause.trans (by rw [hrc]), ?_, fun hpending => ?_⟩
  · exact hgeneration.trans (congrArg Ps.generation (State.setLi_ps u _).symm)
  · obtain ⟨hstep, hat⟩ := hplace s.du.hwm .idleEntry (if_pos hpending)
    exact ⟨hswap hpending, hstep, hat⟩

/-- Settles O44: RELEASE and the end of the drain with what they change, their tests, CLUSTER_RELEASE in STOPPING, and the
beginning of a stop. -/
theorem drainSteps : Obligations.DrainSteps := by
  refine ⟨fun s hlive hrun hphase hidle => ?release, fun s hlive hrun hphase hidle hempty => ?drainEnd,
    fun s h => next_fixed (drainTest_waits h), fun s h => next_fixed (drainEndTest_waits h),
    fun s hlive hrun => ⟨fun h i c hf hq => ?front, fun hstuck => ?stuck⟩,
    fun s => ⟨fun hlive => ⟨next_whenLive hlive drainTest, next_whenLive hlive drainEndTest⟩, rfl, enginesIdle_iff s,
      It.empty_iff, fun x => Gr.noneOpen_iff _⟩,
    fun s cause => ⟨fun hrun => if_pos hrun, beginStop_of_ne⟩⟩
  case release =>
    intro s1 s2
    refine ⟨(next_whenLive hlive drainTest).trans (congrArg Host.Outcome.next (drainTest_ready hrun hphase hidle)), ?_⟩
    unfold releasePhase forcedRelease
    rfl
  case drainEnd =>
    intro swap s1 s2 t
    have ht : t = drainEnd s := (drainEnd_eq s).symm
    have hreport := drainEnd_report s
    have hgr := drainEnd_gr s
    have hopen : ∀ x : Side, ((drainEnd s).gr.get x).noneOpen = true := fun x => by
      rw [Gr.noneOpen_iff, hgr]
      exact drainBothGaps_get s x
    have hexec : exec .drainEnd s = .next (drainEnd s) :=
      (next_whenLive hlive drainEndTest).trans
        (congrArg Host.Outcome.next (drainEndTest_complete hrun hphase hidle hempty))
    obtain ⟨b, v, p, c, g, l, n, hframe, hside, hgone, hp, hslots, hquiet⟩ := drainEnd_frame s
    clear_value t
    subst ht
    refine ⟨hexec, by rw [hframe], hopen .a, hopen .b, by rw [hframe]; exact hp, by rw [hframe]; exact hgone, hreport,
      ?_⟩
    rw [hframe]
    refine ⟨rfl, hside, rfl, rfl, hslots, fun hoff => ?_, rfl, rfl, rfl, rfl⟩
    obtain ⟨hb, hmotion⟩ := hquiet hoff
    exact ⟨by rw [hb], hmotion⟩
  case front =>
    intro t
    have ht : t = s.setTrack (s.track.releaseFront s.du.hwm) := by
      rw [releaseFront_front hf hq, Track.release_eq]
      rfl
    exact ⟨_, exec_clusterRelease hlive, by rw [ht]; exact next_whenLive (by exact hlive) drainEndTest⟩
  case stuck =>
    refine ⟨_, exec_clusterRelease hlive, ?_⟩
    rw [releaseFront_waits hstuck]
    exact next_whenLive hlive drainEndTest

end Sys2Proof.Machine

/-!
Clusters and their release (R128 to R135, R138 to R140): the FLAW report, formation by the candidates, starts, joins and
merges, and sealing.
-/
namespace Sys2Proof.Machine

/-! ## The FLAW report -/

/-- The least of a function over a list that holds its start is taken by a member and bounds all. -/
theorem foldl_min_mem {α : Type} {f : α → Int} {l : List α} {a : α} (h : a ∈ l) :
    (∃ b ∈ l, f b = l.foldl (fun m i => min m (f i)) (f a)) ∧
      ∀ b ∈ l, l.foldl (fun m i => min m (f i)) (f a) ≤ f b := by
  obtain ⟨⟨-, hbound⟩, hreached⟩ := foldl_min f l (f a)
  refine ⟨?_, hbound⟩
  rcases hreached with hstart | ⟨b, hb, heq⟩
  · exact ⟨a, h, hstart.symm⟩
  · exact ⟨b, hb, heq.symm⟩

theorem foldl_max_mem {α : Type} {f : α → Int} {l : List α} {a : α} (h : a ∈ l) :
    (∃ b ∈ l, f b = l.foldl (fun m i => max m (f i)) (f a)) ∧
      ∀ b ∈ l, f b ≤ l.foldl (fun m i => max m (f i)) (f a) := by
  obtain ⟨⟨-, hbound⟩, hreached⟩ := foldl_max f l (f a)
  refine ⟨?_, hbound⟩
  rcases hreached with hstart | ⟨b, hb, heq⟩
  · exact ⟨a, h, hstart.symm⟩
  · exact ⟨b, hb, heq.symm⟩

/-- R139: the strongest member of a report with members. -/
theorem strongest_of_ne {ms : List Indication} (h : ms ≠ []) :
    1 ≤ (match ms with
      | [] => 1
      | i :: is => strongestFrom is 2 (1, i.peak)) ∧ ∃ a, ms[(match ms with
      | [] => 1
      | i :: is => strongestFrom is 2 (1, i.peak)) - 1]? = some a ∧
      ∀ (n : Nat) (b : Indication), ms[n]? = some b → b.peak ≤ a.peak ∧ (n + 1 < (match ms with
      | [] => 1
      | i :: is => strongestFrom is 2 (1, i.peak)) → b.peak < a.peak) := by
  obtain ⟨i, is, rfl⟩ := List.exists_cons_of_ne_nil h
  obtain ⟨a, hone, hget, hmost⟩ := strongest_spec (i := i) (is := is)
  exact ⟨hone, a, hget, hmost⟩

/-- The head's own indication is a member of its report. -/
theorem mem_membersInOrder {t : It} {h : Fin 64} {i : Indication} {o : Nat} {c : Cluster} (hl : clusterLaw t)
    (hh : t.table[h] = .held i ⟨h, o, some c⟩) : i ∈ t.membersInOrder h c.count := by
  obtain ⟨-, hmember⟩ := It.membersInOrder_spec hl hh
  exact List.mem_of_getElem? (hmember h i ⟨h, o, some c⟩ hh rfl)

/-! ## Heads and candidates -/

theorem It.front_none_iff {t : It} : t.front = none ↔ ∀ (h g : Fin 64) (i : Indication) (o : Nat) (c : Cluster),
    t.table[h] = .held i ⟨g, o, some c⟩ → c.sealedAs = none := by
  rw [It.front_none]
  constructor
  · exact fun hall h g i o c heq => hall (h, i, c) (It.mem_heads.2 ⟨g, o, heq⟩)
  · rintro hall ⟨h, i, c⟩ hmem
    obtain ⟨g, o, heq⟩ := It.mem_heads.1 hmem
    exact hall h g i o c heq

theorem It.front_some_law {t : It} {h : Fin 64} {i : Indication} {c : Cluster} (hf : t.front = some (h, i, c)) :
    (∃ (g : Fin 64) (o : Nat), t.table[h] = .held i ⟨g, o, some c⟩) ∧ c.sealedAs ≠ none ∧
      ∀ (h' g : Fin 64) (i' : Indication) (o : Nat) (c' : Cluster), t.table[h'] = .held i' ⟨g, o, some c'⟩ →
        c'.sealedAs ≠ none → c.release < c'.release ∨ (c.release = c'.release ∧ h ≤ h') := by
  obtain ⟨hmem, hsealed, hleast⟩ := It.front_some hf
  refine ⟨It.mem_heads.1 hmem, fun hnone => ?_, fun h' g i' o c' heq hs => ?_⟩
  · rw [hnone] at hsealed
    cases hsealed
  · exact hleast (h', i', c') (It.mem_heads.2 ⟨g, o, heq⟩) (Option.isSome_iff_ne_none.2 hs)

theorem near_iff {w : Nat} {m j : Indication} : near w m j = true ↔ m.first - w ≤ j.last ∧ j.first ≤ m.last + w := by
  simp [near]

theorem It.mem_candidates_iff {t : It} {j : Indication} {h : Fin 64} {c : Cluster} : (h, c) ∈ t.candidates j ↔
    ∃ (g : Fin 64) (i : Indication) (o : Nat), t.table[h] = .held i ⟨g, o, some c⟩ ∧
      i.side = j.side ∧ i.generation = j.generation ∧ c.sealedAs = none ∧
      ∃ (e : Fin 64) (a : Indication) (m : Membership), t.table[e] = .held a m ∧ m.head = h ∧
        a.first - t.settings.window ≤ j.last ∧ j.first ≤ a.last + t.settings.window := by
  rw [It.mem_candidates]
  simp only [It.mem_heads, It.anyNear_iff, near_iff]
  constructor
  · rintro ⟨a, ⟨g, o, heq⟩, hside, hgeneration, hunsealed, hnear⟩
    exact ⟨g, a, o, heq, hside, hgeneration, hunsealed, hnear⟩
  · rintro ⟨g, a, o, heq, hside, hgeneration, hunsealed, hnear⟩
    exact ⟨a, ⟨g, o, heq⟩, hside, hgeneration, hunsealed, hnear⟩

/-! ## Formation -/

section Form
variable {hwm : Int} {j : Fin 64} {i : Indication} {k : Track}

theorem Track.form_none (h : k.it.candidates i = []) : k.form hwm j i = k.startCluster hwm j i := by
  unfold Track.form
  rw [h]

theorem Track.form_one {h : Fin 64} {c : Cluster} (hcs : k.it.candidates i = [(h, c)]) : k.form hwm j i =
    if c.count < 8 then { k with it := k.it.join j i h c } else k.startCluster hwm j i := by
  unfold Track.form
  rw [hcs]
  rfl

/-- R132: several candidates merge when the cluster has room for all; otherwise the first with room is joined. -/
theorem Track.form_several {h : Fin 64} {c : Cluster} {rest : List (Fin 64 × Cluster)}
    (hcs : k.it.candidates i = (h, c) :: rest) (hne : rest ≠ []) : k.form hwm j i =
    if countSum ((h, c) :: rest) + 1 ≤ 8 then { k with it := k.it.merge j i h ((h, c) :: rest) }
    else match ((h, c) :: rest).find? (fun q => q.2.count < 8) with
      | some (h', c') => { k with it := k.it.join j i h' c' }
      | none => k.startCluster hwm j i := by
  obtain ⟨d, ds, rfl⟩ := List.exists_cons_of_ne_nil hne
  unfold Track.form
  rw [hcs]
  rfl

theorem Track.startCluster_waits (h : hwm ≤ i.last + k.it.settings.window) : k.startCluster hwm j i =
    ⟨{ k.it with table := k.it.table.set j (.held i ⟨j, 1, some ⟨i.last + k.it.settings.window, 1, none⟩⟩) }, k.li⟩ := by
  have hnot : ¬ i.last + k.it.settings.window < hwm := Int.not_lt.2 h
  unfold Track.startCluster
  dsimp only
  rw [if_neg hnot, if_neg hnot]
  rfl

theorem Track.startCluster_due (h : i.last + k.it.settings.window < hwm) : k.startCluster hwm j i =
    Track.releaseAll hwm ⟨{ k.it with
      table := k.it.table.set j (.held i ⟨j, 1, some ⟨i.last + k.it.settings.window, 1, some .due⟩⟩) }, k.li⟩ := by
  unfold Track.startCluster
  dsimp only
  rw [if_pos h, if_pos h]
  rfl

end Form

/-! ## Joins, merges and members -/

theorem It.join_eq {t : It} {j h : Fin 64} {i a : Indication} {g : Fin 64} {o : Nat} {c c' : Cluster} (hj : j ≠ h)
    (he : t.table[h] = .held a ⟨g, o, some c'⟩) : t.join j i h c = { t with
      table := (t.table.set j (.held i ⟨h, c.count + 1, none⟩)).set h
        (.held a ⟨g, o, some ⟨max c.release (i.last + t.settings.window), c.count + 1, none⟩⟩) } := by
  have hget : (t.setEntry j (.held i ⟨h, c.count + 1, none⟩)).table[h] = .held a ⟨g, o, some c'⟩ := by
    rw [It.setEntry_get, if_neg (Ne.symm hj), he]
  unfold It.join It.setCluster
  rw [hget]
  rfl

/-- An It with the table of another that differs in nothing else. -/
theorem SameButTable.eq {t u : It} (h : SameButTable t u) : u = { t with table := u.table } := by
  obtain ⟨hsettings, hzones, hoffset, hverdicts⟩ := h
  rw [← hsettings, ← hzones, ← hoffset, ← hverdicts]

/-- R132: a member of a candidate is renumbered on from the candidates before its own; the surviving head keeps the
cluster fields. -/
theorem It.merge_member {t : It} {j h : Fin 64} {i a : Indication} {o : Nat} {c c' : Cluster}
    {rest : List (Fin 64 × Cluster)} (hp : ((h, c) :: rest).Pairwise (fun p q => p.1 < q.1))
    (hh : t.table[h] = .held a ⟨h, o, some c'⟩) (hj : j ≠ h) {e : Fin 64} {b : Indication} {m : Membership}
    {before after : List (Fin 64 × Cluster)} {d : Cluster} (he : t.table[e] = .held b m) (hne : e ≠ j)
    (hcs : (h, c) :: rest = before ++ (m.head, d) :: after) : (t.merge j i h ((h, c) :: rest)).table[e] =
      .held b ⟨h, countSum before + m.order, if e = h
        then some ⟨releaseMax ((h, c) :: rest) (i.last + t.settings.window), countSum ((h, c) :: rest) + 1, none⟩
        else none⟩ := by
  rw [It.merge_get rfl hp hh hj]
  by_cases hhead : e = h
  · rw [if_pos hhead, if_pos hhead]
    rw [hhead, hh] at he
    obtain ⟨rfl, rfl⟩ := TableEntry.held.inj he
    cases before with
    | nil => rw [show countSum [] = 0 from rfl, Nat.zero_add]
    | cons q before =>
      obtain ⟨rfl, hrest⟩ := List.cons.inj hcs
      have hlt := (List.pairwise_cons.1 hp).1 (h, d) (by rw [hrest]; simp)
      exact absurd hlt (Fin.lt_irrefl h)
  · rw [if_neg hhead, if_neg hne, if_neg hhead, he]
    have hafter : ∀ q ∈ after, h < q.1 := fun q hq => by
      cases before with
      | nil =>
        obtain ⟨-, rfl⟩ := List.cons.inj hcs
        exact (List.pairwise_cons.1 hp).1 q hq
      | cons q' before =>
        obtain ⟨-, hrest⟩ := List.cons.inj hcs
        exact (List.pairwise_cons.1 hp).1 q (by rw [hrest]; simp [hq])
    dsimp only
    rw [hcs, regrouped_of_mem (hcs ▸ hp) hafter, Nat.zero_add]

theorem TableEntry.memberOf_iff {e : TableEntry} {h : Fin 64} : e.memberOf h = true ↔
    ∃ (a : Indication) (m : Membership), e = .held a m ∧ m.head = h := by
  cases e with
  | free => exact iff_of_false nofun fun ⟨_, _, heq, _⟩ => nomatch heq
  | opened a run => exact iff_of_false nofun fun ⟨_, _, heq, _⟩ => nomatch heq
  | held a m =>
    refine decide_eq_true_iff.trans ⟨fun hm => ⟨a, m, rfl, hm⟩, fun ⟨_, _, heq, hm⟩ => ?_⟩
    obtain ⟨rfl, rfl⟩ := TableEntry.held.inj heq
    exact hm

theorem releaseMax_eq (cs : List (Fin 64 × Cluster)) (r : Int) :
    releaseMax cs r = (cs.map (fun q => q.2.release)).foldl max r := by
  unfold releaseMax
  rw [List.foldl_map]

namespace Settled

/-- Settles O43: the command, the front, the report, and the operations on clusters, each by its law. -/
theorem clusterRelease : Obligations.ClusterRelease := by
  refine ⟨fun s h i c hlive hrun hf hq => ?leaves, fun s hrun hstuck => ?waits,
    fun t => ⟨It.front_none_iff, fun h i c => It.front_some_law⟩, fun t hwm h i o c hl hh => ?report,
    fun hwm k => ⟨Track.releaseAll_stuck, fun h i c hf hq => ?all⟩,
    fun t j => ⟨It.candidates_ascending t j, fun h c => It.mem_candidates_iff⟩, fun hwm j i k => ?form,
    fun hwm j i k => ⟨Track.startCluster_waits, Track.startCluster_due⟩,
    fun t j h i a g o c c' hj he => It.join_eq hj he, fun t j h i a o c c' rest => ?merge, fun t hwm =>
      ⟨rfl, rfl, fun e g i o r n he => ⟨It.sealDue_head he, It.sealForced_head he⟩,
        fun e he => It.seal_other fun g i o r n => he g i o r n⟩, fun e h => TableEntry.memberOf_iff⟩
  case leaves =>
    have hexec := exec_clusterRelease hlive
    rw [releaseFront_front hf hq, drainEndTest_waits (.inl (by exact hrun)), Track.release_eq] at hexec
    refine ⟨_, hexec, rfl, rfl, rfl, fun j => ?_⟩
    rw [State.setTrack_it]
    simp only [Fin.getElem_fin, Vector.getElem_ofFn]
    rfl
  case waits =>
    refine next_fixed (f := fun s => drainEndTest (s.setTrack (s.track.releaseFront s.du.hwm))) ?_
    rw [releaseFront_waits hstuck, drainEndTest_waits (.inl hrun)]
  case report =>
    intro r
    obtain ⟨hlength, hmember⟩ := It.membersInOrder_spec hl hh
    have hself := mem_membersInOrder hl hh
    obtain ⟨hfirst, hfirstBound⟩ := foldl_min_mem (f := Indication.first) hself
    obtain ⟨hlast, hlastBound⟩ := foldl_max_mem (f := Indication.last) hself
    exact ⟨rfl, rfl, rfl, rfl, rfl, hlength, hmember, hfirst, hfirstBound, hlast, hlastBound,
      strongest_of_ne (List.ne_nil_of_mem hself)⟩
  case all =>
    rw [Track.releaseAll_some hf hq, Track.release_eq]
  case form =>
    intro cs total
    refine ⟨Track.form_none, fun h c hcs => ⟨fun hroom => ?_, fun hfull => ?_⟩,
      fun h c rest hcs hne => ⟨fun hroom => ?_, fun hmany hfull => ?_, fun before after h' c' hmany hsplit hfull hroom => ?_⟩⟩
    · rw [Track.form_one hcs, if_pos (by omega)]
    · rw [Track.form_one hcs, if_neg (by omega)]
    · have hsum : countSum ((h, c) :: rest) + 1 ≤ 8 := hcs ▸ hroom
      rw [Track.form_several hcs hne, if_pos hsum]
      rw [show cs = (h, c) :: rest from hcs]
    · have hsum : ¬ countSum ((h, c) :: rest) + 1 ≤ 8 := Nat.not_le.2 (hcs ▸ hmany)
      have hnone : ((h, c) :: rest).find? (fun q => decide (q.2.count < 8)) = none :=
        List.find?_eq_none.2 fun q hq hlt => absurd (of_decide_eq_true hlt) (Nat.not_lt.2 (hfull q (hcs ▸ hq)))
      rw [Track.form_several hcs hne, if_neg hsum, hnone]
    · have hsum : ¬ countSum ((h, c) :: rest) + 1 ≤ 8 := Nat.not_le.2 (hcs ▸ hmany)
      have hfind : ((h, c) :: rest).find? (fun q => decide (q.2.count < 8)) = some (h', c') := by
        rw [show (h, c) :: rest = before ++ (h', c') :: after from hcs.symm.trans hsplit]
        refine List.find?_eq_some_iff_append.2 ⟨decide_eq_true (show c'.count < 8 by omega), before, after, rfl, fun q hq => ?_⟩
        rw [Bool.not_eq_true', decide_eq_false_iff_not]
        exact Nat.not_lt.2 (hfull q hq)
      rw [Track.form_several hcs hne, if_neg hsum, hfind]
  case merge =>
    intro cs sum release hp hh hfree
    have hj : j ≠ h := fun heq => hfree a ⟨h, o, some c'⟩ (heq ▸ hh)
    have hrelease : releaseMax cs (i.last + t.settings.window) = release := releaseMax_eq _ _
    refine ⟨(It.merge_same t j i h cs).eq, ?_, fun e b m before after d he hcs => ?_, fun e hne hnot => ?_⟩
    · rw [It.merge_get rfl hp hh hj, if_neg hj, if_pos rfl]
      rfl
    · have hne : e ≠ j := fun heq => hfree b m (heq ▸ he)
      rw [It.merge_member hp hh hj he hne hcs, ← hrelease]
      rfl
    · rw [It.merge_get rfl hp hh hj]
      have hhead : e ≠ h := fun heq => hnot a ⟨h, o, some c'⟩ (heq ▸ hh) (h, c) List.mem_cons_self rfl
      rw [if_neg hhead, if_neg hne]
      cases he : t.table[e] with
      | free => rfl
      | opened b n => rfl
      | held b m => exact congrArg (TableEntry.held b) (regrouped_of_notMem (hnot b m he))

end Settled
end Sys2Proof.Machine

/-!
The Message Link's obligations: the idle timer and HOLD_IN (R160, R166), the beginning of a frame and the bytes of the reports
(R167, R190), the choice of the oldest report (R165, R166), the end of a transmission (R168, R181), and the output pins.
-/
namespace Sys2Proof.Machine

/-! ## The idle timer and HOLD_IN -/

theorem idleExpiry_some {s : State} {t : Nat} (h : s.li.receiver.idle = some t) : idleExpiry s =
    (s.advanceTo t).setLi { s.li with
      receiver := ⟨false, [], false, none⟩, latches := { s.li.latches with timeout := true } } := by
  unfold idleExpiry
  rw [h]
  rfl

theorem idleExpiry_none {s : State} (h : s.li.receiver.idle = none) : idleExpiry s = s := by
  unfold idleExpiry
  rw [h]

theorem transmissionStart_busy {s : State} (h : s.li.tx ≠ none ∨ s.li.holdIn = true) : transmissionStart s = s := by
  refine if_neg ?_
  unfold Li.free
  rw [Bool.and_eq_true, Option.isNone_iff_eq_none, Bool.not_eq_true']
  rintro ⟨htx, hhold⟩
  rcases h with h | h
  · exact h htx
  · rw [h] at hhold; cases hhold

/-- R166, R167: the free transmitter begins the frame of the choice. -/
theorem transmissionStart_free {s : State} (htx : s.li.tx = none) (hhold : s.li.holdIn = false) : transmissionStart s =
    match s.li.choice with
    | none => s
    | some owner => beginFrame s owner := by
  refine if_pos ?_
  unfold Li.free
  rw [htx, hhold]
  rfl

theorem Li.choice_reply {l : Li} {r : Reply} (h : l.reply = some r) : l.choice = some (.reply r.resetAck) := by
  unfold Li.choice
  rw [h]

theorem Li.choice_report {l : Li} (h : l.reply = none) :
    l.choice = (oldestCandidate l.candidates).map (fun c => c.owner) := by
  unfold Li.choice
  rw [h]

/-- With nothing waiting no frame begins. -/
theorem transmissionStart_empty {s : State} (hreply : s.li.reply = none) (hnone : s.li.candidates = []) :
    transmissionStart s = s := by
  unfold transmissionStart
  rw [Li.choice_report hreply, hnone]
  exact ite_self s

/-- Settles O47: only a running idle timer expires, and a release of HOLD_IN lets the transmitter choose. -/
theorem idleTimerAndHoldIn : Obligations.IdleTimerAndHoldIn := by
  refine ⟨fun s t hlive ht => ?expires, fun s hnone => next_fixed (idleExpiry_none hnone), fun s after hlive => ?hold,
    fun s hhold => next_fixed (transmissionStart_busy (.inr hhold)), rfl⟩
  case expires => exact (next_whenLive hlive idleExpiry).trans (congrArg Host.Outcome.next (idleExpiry_some ht))
  case hold =>
    exact ⟨next_after hlive after (fun s => s.setLi { s.li with holdIn := true }), next_after hlive after holdInRelease,
      next_whenLive (s := (s.advance after).setLi { s.li with holdIn := false }) hlive transmissionStart,
      fun htx => transmissionStart_busy (.inl htx),
      fun hreply hnone => transmissionStart_empty (s := (s.advance after).setLi { s.li with holdIn := false }) hreply hnone⟩

/-! ## The characters of a frame -/

/-- After the first character no mark bit is set. -/
theorem zipIdx_unmarked (bytes : List Byte) (n : Nat) :
    (bytes.zipIdx (n + 1)).map (fun q => Character.mk q.1 (decide (q.2 = 0)) true) =
      bytes.map (fun b => ⟨b, false, true⟩) := by
  induction bytes generalizing n with
  | nil => rfl
  | cons b bytes ih =>
    rw [List.zipIdx_cons, List.map_cons, List.map_cons, ih]
    rfl

theorem frameCharacters_eq (bytes : List Byte) :
    frameCharacters bytes = bytes.zipIdx.map (fun q => Character.mk q.1 (decide (q.2 = 0)) true) := by
  cases bytes with
  | nil => rfl
  | cons b bytes =>
    rw [List.zipIdx_cons, List.map_cons, zipIdx_unmarked]
    rfl

theorem charTime_eq (r : LinkRate) : r.charTime = match r with
    | .half => 440
    | .one => 220
    | .two => 110
    | .four => 55 := by cases r <;> rfl

/-- A frame of these bytes, as the link sends it. -/
theorem Li.transmit_eq (now : Nat) (owner : FrameOwner) (mark : Bool) (bytes : List Byte) (l : Li) :
    l.transmit now owner mark bytes = { l with
      tx := some ⟨owner, mark, bytes.zipIdx.map (fun q => Character.mk q.1 (decide (q.2 = 0)) true), now,
        now + bytes.length * match l.rate with
          | .half => 440
          | .one => 220
          | .two => 110
          | .four => 55⟩ } := by
  unfold Li.transmit
  rw [frameCharacters_eq, charTime_eq]

/-! ## Bytes -/

theorem be32_eq (n : Nat) :
    be32 n = [BitVec.ofNat 8 (n / 16777216), BitVec.ofNat 8 (n / 65536), BitVec.ofNat 8 (n / 256), BitVec.ofNat 8 n] := by
  unfold be32 be16 byte
  rw [Nat.div_div_eq_div_mul]
  rfl

theorem boolCode_eq (b : Bool) : boolCode b = if b then 2 ^ 0 else 0 := by cases b <;> rfl

theorem MotionReport.payload_eq (r : MotionReport) : r.payload =
    [byte (bitWeight r.causes.state 0 + bitWeight r.causes.fast 1 + bitWeight r.causes.encoderError 2 +
      bitWeight r.causes.rangeEnd 3)] ++ beS32 r.step ++ beS32 r.hwm ++ be24 (r.period.getD 0) ++
      [byte r.motion.code, byte (bitWeight r.fast 0 + bitWeight r.encoderError 1 + bitWeight r.rangeEnd 2)] := by
  simp [MotionReport.payload, flagByte_eq_sum, Nat.add_assoc]

theorem RunstateReport.payload_eq (r : RunstateReport) : r.payload =
    [byte (bitWeight r.causes.start 0 + bitWeight r.causes.stop 1 + bitWeight r.causes.idle 2 +
      bitWeight r.causes.swap 3 + bitWeight r.causes.reset 4), byte r.run.code, byte r.cause.code] ++
      beS32 r.hwm ++ be16 r.generation.toNat ++ beS32 r.swapStep ++ [byte r.swapPlace.code] := by
  simp [RunstateReport.payload, flagByte_eq_sum, Nat.add_assoc]

theorem SideReport.payload_eq (x : Side) (sc : Sc) (r : SideReport) : r.payload x sc =
    [byte (sideCode x), byte sc.state.code, byte (if sc.lowered then 2 ^ 0 else 0), byte sc.level.code,
      byte r.events.toNat] ++ be16 sc.faultMask.toNat ++ be16 sc.shortMask.toNat ++
      [byte (if r.mark then 2 ^ 0 else 0)] := by
  unfold SideReport.payload byte
  rw [BitVec.ofNat_toNat, boolCode_eq, boolCode_eq]
  rfl

theorem CouplingReport.payload_eq (x : Side) (cs : Cs) (r : CouplingReport) : r.payload x cs =
    [byte (sideCode x)] ++ (List.finRange 12).map (fun c => byte cs.ratings[c].state.code) ++
      be16 r.changed.toNat ++ [byte (if r.mark then 2 ^ 0 else 0)] := by
  unfold CouplingReport.payload
  rw [boolCode_eq]
  rfl

theorem GapRange.bytes_eq (g : GapRange) : g.bytes =
    beS32 g.first ++ beS32 g.last ++ [byte g.causes.toNat] ++ be16 g.channels.toNat ++
      [byte g.count, byte (if g.drain then 2 ^ 0 else 0)] := by
  unfold GapRange.bytes byte
  rw [BitVec.ofNat_toNat, boolCode_eq]
  rfl

theorem IndicationFlags.code_eq (f : IndicationFlags) : f.code = bitWeight f.interrupted 0 + bitWeight f.saturated 1 +
    bitWeight f.truncated 2 + bitWeight f.long 3 + bitWeight f.planChange 4 := by
  simp [IndicationFlags.code, flagByte_eq_sum, Nat.add_assoc]

theorem Indication.bytes_eq (i : Indication) : i.bytes =
    [byte i.shot, byte i.gate, byte i.tx.val, byte i.rx.val] ++ beS32 i.first ++ beS32 i.last ++ be16 i.hits ++
      [byte i.peak] ++ beS32 i.peakStep ++ be16 i.peakTof ++ be16 i.tofMin ++ be16 i.tofMax ++
      [byte (i.zoneKind.getD 0), byte (bitWeight i.flags.interrupted 0 + bitWeight i.flags.saturated 1 +
        bitWeight i.flags.truncated 2 + bitWeight i.flags.long 3 + bitWeight i.flags.planChange 4)] := by
  unfold Indication.bytes
  rw [IndicationFlags.code_eq]

theorem FlawReport.payload_eq (r : FlawReport) : r.payload =
    [byte (sideCode r.side)] ++ be16 r.generation.toNat ++ [byte r.members.length] ++ beS32 r.first ++ beS32 r.last ++
      beS40 r.release ++ [byte r.mode.code] ++ beS32 r.hwm ++ [byte r.strongest] ++
      r.members.flatMap Indication.bytes := rfl

/-- R157: a byte enters the check register at the end. -/
theorem frameCheck_append (bytes : List Byte) (v : Byte) : frameCheck (bytes ++ [v]) = crcByte (frameCheck bytes) v := by
  unfold frameCheck
  rw [List.foldl_append]
  rfl

end Sys2Proof.Machine

/-!
The beginning of a frame (R167, R190), the choice of the oldest report (R165, R166), the end of a transmission (R168, R181),
and the output pins (R191).
-/
namespace Sys2Proof.Machine

/-! ## The beginning of a frame -/

/-- R167: a report frame takes the sequence number as its tag. -/
theorem Li.transmitReport_eq (now : Nat) (owner : FrameOwner) (mark : Bool) (kind : Byte) (payload : List Byte) (l : Li) :
    l.transmitReport now owner mark kind payload = { l with
      tx := some ⟨owner, mark,
        (frameBytes 0xA3#8 kind l.sequence payload).zipIdx.map (fun q => Character.mk q.1 (decide (q.2 = 0)) true), now,
        now + (frameBytes 0xA3#8 kind l.sequence payload).length * match l.rate with
          | .half => 440
          | .one => 220
          | .two => 110
          | .four => 55⟩
      sequence := l.sequence + 1 } := by
  unfold Li.transmitReport
  rw [Li.transmit_eq]
  rfl

section Begin
variable {s : State}

theorem beginFrame_reply {b : Bool} {r : Reply} (h : s.li.reply = some r) : beginFrame s (.reply b) =
    s.setLi (({ s.li with reply := none } : Li).transmit s.now (.reply b) false
      (frameBytes 0xA2#8 r.kind r.tag r.payload)) := by
  unfold beginFrame
  rw [h]
  rfl

theorem beginFrame_motion {p : Pending MotionReport} (h : s.li.motion = some p) : beginFrame s .motion =
    (s.setLi (({ s.li with motion := none } : Li).transmitReport s.now .motion false 0x41#8 p.report.payload)).setDu
      { s.du with encoderError := false, rangeEnd := false } := by
  unfold beginFrame
  rw [h]
  rfl

theorem beginFrame_runstate {p : Pending RunstateReport} (h : s.li.runstate = some p) : beginFrame s .runstate =
    s.setLi (({ s.li with runstate := none } : Li).transmitReport s.now .runstate false 0x42#8 p.report.payload) := by
  unfold beginFrame
  rw [h]
  rfl

theorem beginFrame_side {x : Side} {p : Pending SideReport} (h : s.li.side.get x = some p) : beginFrame s (.side x) =
    s.setLi (({ s.li with side := s.li.side.set x none } : Li).transmitReport s.now (.side x) p.report.mark 0x43#8
      (p.report.payload x (s.sc.get x))) := by
  unfold beginFrame
  dsimp only
  rw [h]
  rfl

theorem beginFrame_coupling {x : Side} {p : Pending CouplingReport} (h : s.li.coupling.get x = some p) :
    beginFrame s (.coupling x) =
    s.setLi (({ s.li with coupling := s.li.coupling.set x none } : Li).transmitReport s.now (.coupling x) p.report.mark
      0x44#8 (p.report.payload x (s.cs.get x))) := by
  unfold beginFrame
  dsimp only
  rw [h]
  rfl

theorem beginFrame_gap {x : Side} {p : Pending GapReport} (h : s.li.gap.get x = some p) : beginFrame s (.gap x) =
    s.setLi (({ s.li with gap := s.li.gap.set x none } : Li).transmitReport s.now (.gap x) false 0x45#8
      (p.report.payload x)) := by
  unfold beginFrame
  dsimp only
  rw [h]
  rfl

/-- R136: a FLAW report that leaves its queue makes room for the release line. -/
theorem beginFrame_flaw {p : Pending FlawReport} {rest : List (Pending FlawReport)} (h : s.li.flawQueue = p :: rest) :
    beginFrame s .flaw = drainEndTest (releaseClusters (s.setLi
      (({ s.li with flawQueue := rest } : Li).transmitReport s.now .flaw false 0x46#8 p.report.payload))) := by
  unfold beginFrame
  dsimp only
  rw [h]
  rfl

end Begin

/-- The command begins the frame of the choice. -/
theorem exec_transmissionStart {s : State} {owner : FrameOwner} (h : live s) (htx : s.li.tx = none)
    (hhold : s.li.holdIn = false) (hc : s.li.choice = some owner) :
    exec .transmissionStart s = .next (beginFrame s owner) := by
  refine (next_whenLive h transmissionStart).trans ?_
  rw [transmissionStart_free htx hhold, hc]

namespace Settled

/-- Settles O48: the frame of the choice and the place that it leaves; the payloads of the six reports, the frame and its
check, byte by byte. -/
theorem transmissionStart : Obligations.TransmissionStart := by
  refine ⟨fun s hlive htx hhold => ?frames, ?bytes⟩
  case frames =>
    intro characters time sending report
    have hstart := fun owner => exec_transmissionStart (owner := owner) hlive htx hhold
    refine ⟨fun r hr => ?_, fun hreply hnone => ?_, fun _ => ⟨fun p hc hp => ?_, fun p hc hp => ?_, fun x p hc hp => ?_,
      fun x p hc hp => ?_, fun x p hc hp => ?_, fun p rest hc hp => ?_⟩⟩
    · rw [hstart _ (Li.choice_reply hr), beginFrame_reply hr, Li.transmit_eq] <;> rfl
    · refine (next_whenLive hlive Machine.transmissionStart).trans ?_
      rw [transmissionStart_free htx hhold, hnone]
    · rw [hstart _ hc, beginFrame_motion hp, Li.transmitReport_eq] <;> rfl
    · rw [hstart _ hc, beginFrame_runstate hp, Li.transmitReport_eq] <;> rfl
    · rw [hstart _ hc, beginFrame_side hp, Li.transmitReport_eq] <;> rfl
    · rw [hstart _ hc, beginFrame_coupling hp, Li.transmitReport_eq] <;> rfl
    · rw [hstart _ hc, beginFrame_gap hp, Li.transmitReport_eq] <;> rfl
    · refine ((hstart _ hc).trans (congrArg Host.Outcome.next (beginFrame_flaw hp))).trans ?_
      exact congrArg (fun l => Host.Outcome.next (drainEndTest (releaseClusters (s.setLi l))))
        (Li.transmitReport_eq _ _ _ _ _ _)
  case bytes =>
    refine ⟨MotionReport.payload_eq, RunstateReport.payload_eq, SideReport.payload_eq, CouplingReport.payload_eq,
      fun x r => ?_, fun r => ?_, fun cls kind tag payload => rfl, rfl, fun bytes v => frameCheck_append bytes v,
      fun n => ⟨rfl, rfl⟩, fun z => be32_eq _, fun z => ?_⟩
    · unfold GapReport.payload
      rw [funext GapRange.bytes_eq]
      rfl
    · rw [FlawReport.payload_eq, funext Indication.bytes_eq]
      rfl
    · unfold beS40
      dsimp only
      rw [be32_eq]
      rfl

end Settled

/-! ## The oldest report -/

/-- How far an ordinal lies after a base. -/
def ordinalAfter (base o : BitVec 16) : Nat := (o - base).toNat

/-- R165: within half the counter's range the comparison is that of the distances from the base. -/
theorem olderOrdinal_iff {base a b : BitVec 16} (ha : ordinalAfter base a ≤ 32767) (hb : ordinalAfter base b ≤ 32767) :
    olderOrdinal a b = true ↔ ordinalAfter base a < ordinalAfter base b := by
  unfold olderOrdinal ordinalAfter at *
  rw [Bool.and_eq_true, decide_eq_true_eq, decide_eq_true_eq]
  bv_omega

theorem oldestCandidate_none {cs : List Candidate} : oldestCandidate cs = none ↔ cs = [] := by
  cases cs with
  | nil => exact iff_of_true rfl rfl
  | cons c cs =>
    refine iff_of_false (fun h => ?_) (List.cons_ne_nil c cs)
    unfold oldestCandidate at h
    split at h
    · cases h
    · split at h <;> cases h

/-- R166: the choice is one of the candidates, and none is older. -/
theorem oldestCandidate_some {base : BitVec 16} : ∀ {cs : List Candidate} {m : Candidate},
    (∀ c ∈ cs, ordinalAfter base c.ordinal ≤ 32767) → oldestCandidate cs = some m →
    m ∈ cs ∧ ∀ d ∈ cs, ordinalAfter base m.ordinal ≤ ordinalAfter base d.ordinal
  | [], _, _, h => nomatch h
  | c :: cs, m, hrange, h => by
    obtain ⟨hc, hcs⟩ := List.forall_mem_cons.1 hrange
    unfold oldestCandidate at h
    split at h
    case h_1 hnone =>
      obtain rfl := Option.some.inj h
      rw [oldestCandidate_none.1 hnone]
      exact ⟨List.mem_singleton_self c, fun d hd => Nat.le_of_eq (by rw [List.mem_singleton.1 hd])⟩
    case h_2 d hd =>
      obtain ⟨hmem, hleast⟩ := oldestCandidate_some hcs hd
      split at h
      case isTrue holder =>
        obtain rfl := Option.some.inj h
        have hlt := (olderOrdinal_iff (hcs d hmem) hc).1 holder
        exact ⟨List.mem_cons_of_mem c hmem, List.forall_mem_cons.2 ⟨Nat.le_of_lt hlt, hleast⟩⟩
      case isFalse hnot =>
        obtain rfl := Option.some.inj h
        have hle := Nat.not_lt.1 (mt (olderOrdinal_iff (hcs d hmem) hc).2 hnot)
        exact ⟨List.mem_cons_self, List.forall_mem_cons.2 ⟨Nat.le_refl _, fun e he => Nat.le_trans hle (hleast e he)⟩⟩

theorem slotCandidate_eq_some {α : Type} {owner : FrameOwner} {slot : Option (Pending α)} {c : Candidate} :
    slotCandidate owner slot = some c ↔ ∃ p, slot = some p ∧ c = ⟨owner, p.ordinal⟩ := by
  unfold slotCandidate
  rw [Option.map_eq_some_iff]
  exact exists_congr fun p => and_congr_right fun _ => eq_comm

theorem exists_side {P : Side → Prop} : (∃ x, P x) ↔ P .a ∨ P .b :=
  ⟨fun ⟨x, hx⟩ => by cases x with
    | a => exact .inl hx
    | b => exact .inr hx, fun h => h.elim (⟨.a, ·⟩) (⟨.b, ·⟩)⟩

/-- R166: the candidates are the reports of the slots and the head of the flaw queue. -/
theorem Li.mem_candidates {l : Li} {c : Candidate} : c ∈ l.candidates ↔
    (∃ p, l.motion = some p ∧ c = ⟨.motion, p.ordinal⟩) ∨ (∃ p, l.runstate = some p ∧ c = ⟨.runstate, p.ordinal⟩) ∨
    (∃ x p, l.side.get x = some p ∧ c = ⟨.side x, p.ordinal⟩) ∨
    (∃ x p, l.coupling.get x = some p ∧ c = ⟨.coupling x, p.ordinal⟩) ∨
    (∃ x p, l.gap.get x = some p ∧ c = ⟨.gap x, p.ordinal⟩) ∨
    ∃ p rest, l.flawQueue = p :: rest ∧ c = ⟨.flaw, p.ordinal⟩ := by
  have hflaw : (∃ p, l.flawQueue.head? = some p ∧ c = ⟨.flaw, p.ordinal⟩) ↔
      ∃ p rest, l.flawQueue = p :: rest ∧ c = ⟨.flaw, p.ordinal⟩ := by
    simp only [List.head?_eq_some_iff, exists_and_right]
  unfold Li.candidates
  rw [List.mem_filterMap]
  simp only [id, exists_eq_right, List.mem_cons, List.not_mem_nil, or_false, eq_comm (a := some c), slotCandidate_eq_some,
    hflaw, exists_side, PerSide.get_a, PerSide.get_b]
  simp only [or_assoc]

/-- Settles O49: the candidates, and among them the oldest. -/
theorem oldestReportChosen : Obligations.OldestReportChosen := by
  refine ⟨fun l c => Li.mem_candidates, fun l base hreply hrange => ?_⟩
  rw [Li.choice_report hreply]
  refine ⟨Option.map_eq_none_iff.trans oldestCandidate_none, fun o ho => ?_⟩
  obtain ⟨m, hm, rfl⟩ := Option.map_eq_some_iff.1 ho
  obtain ⟨hmem, hleast⟩ := oldestCandidate_some (base := base) hrange hm
  exact ⟨m, hmem, rfl, hleast⟩

end Sys2Proof.Machine

/-!
The end of a transmission (R168, R181), the output pins (R191) and the three resets (R182 to R184).
-/
namespace Sys2Proof.Machine

/-! ## The end of a transmission -/

theorem FrameOwner.isResetAck_eq (o : FrameOwner) : o.isResetAck = decide (o = .reply true) := by
  cases o with
  | reply b => cases b <;> rfl
  | motion | runstate | side _ | coupling _ | gap _ | flaw => rfl

theorem HandlerState.ackEnded_eq (b : Bool) (h : HandlerState) : h.ackEnded b = match h with
    | .ready => .ready
    | .awaitingReset scope sent => .awaitingReset scope (sent || b) := by
  cases h <;> rfl

theorem transmissionEnd_none {s : State} (h : s.li.tx = none) : transmissionEnd s = s := by
  unfold transmissionEnd
  rw [h]

theorem transmissionEnd_some {s : State} {t : TxFrame} (h : s.li.tx = some t) : transmissionEnd s = { s with
    now := max s.now t.finish
    li := { s.li with tx := none }
    rc := { s.rc with handler := s.rc.handler.ackEnded t.owner.isResetAck } } := by
  unfold transmissionEnd
  rw [h]
  rfl

namespace Settled

/-- Settles O50: the frame leaves the line, and the end of a RESET's ACK is noted. -/
theorem transmissionEnd : Obligations.TransmissionEnd := by
  refine ⟨fun s t hlive ht => ?_, fun s hnone => next_fixed (transmissionEnd_none hnone)⟩
  refine (next_whenLive hlive Machine.transmissionEnd).trans (congrArg Host.Outcome.next ?_)
  rw [transmissionEnd_some ht, HandlerState.ackEnded_eq, FrameOwner.isResetAck_eq] <;> rfl

end Settled

/-! ## The output pins -/

theorem holdOut_live {s : State} (h : live s) : holdOut s = true ↔ 2 ≤ s.li.held.length := by
  unfold holdOut
  rw [show s.pinReset = false from h]
  exact decide_eq_true_iff

theorem mark_iff {α : Type} {slot : Option α} {f : α → Bool} : (slot.map f).getD false = true ↔ ∃ p, slot = some p ∧ f p = true := by
  cases slot <;> simp

/-- R38: ALERT shows a marked report that is pending or in transmission. -/
theorem alert_live {s : State} (h : live s) : alert s = true ↔
    (∃ (x : Side) (p : Pending SideReport), s.li.side.get x = some p ∧ p.report.mark = true) ∨
    (∃ (x : Side) (p : Pending CouplingReport), s.li.coupling.get x = some p ∧ p.report.mark = true) ∨
    (∃ t, s.li.tx = some t ∧ t.mark = true) := by
  unfold alert
  rw [show s.pinReset = false from h, Bool.not_false, Bool.true_and, Bool.or_eq_true, List.any_eq_true, mark_iff, ← or_assoc]
  refine or_congr_left ?_
  simp only [Bool.or_eq_true, mark_iff, List.mem_cons, List.not_mem_nil, or_false, exists_side, or_and_right, exists_or,
    exists_eq_left]
  exact or_or_or_comm

theorem supplyEnable_live {s : State} (h : live s) (x : Side) : supplyEnable s x = (s.sc.get x).supply := by
  unfold supplyEnable
  rw [show s.pinReset = false from h]
  rfl

theorem txd_none {s : State} (h : s.li.tx = none) : txd s = true := by
  unfold txd
  rw [h]

theorem txd_held {s : State} (h : s.pinReset = true) : txd s = true := by
  unfold txd
  rw [h]
  cases s.li.tx <;> rfl

theorem txd_some {s : State} {f : TxFrame} (hlive : live s) (h : s.li.tx = some f) :
    txd s = (f.bits[(s.now - f.start) / s.li.rate.bitTime]?).getD true := by
  unfold txd
  rw [h, show s.pinReset = false from hlive]
  exact (Bool.false_or _).trans List.getD_eq_getElem?_getD

/-- R154: bit `i` of character `n` stands on the line for one bit time. -/
theorem txd_bit {s : State} {f : TxFrame} (hlive : live s) (h : s.li.tx = some f) {n i r : Nat} {c : Character}
    (hc : f.characters[n]? = some c) (hi : i < 11) (hr : r < s.li.rate.bitTime)
    (hnow : s.now = f.start + (11 * n + i) * s.li.rate.bitTime + r) : txd s = if i = 0 then false
      else if i ≤ 8 then c.data.getLsbD (i - 1)
      else if i = 9 then c.mark
      else c.stop := by
  have hindex : (s.now - f.start) / s.li.rate.bitTime = 11 * n + i := by
    rw [hnow, show f.start + (11 * n + i) * s.li.rate.bitTime + r - f.start = r + s.li.rate.bitTime * (11 * n + i) by
      rw [Nat.mul_comm s.li.rate.bitTime]; omega, Nat.add_mul_div_left _ _ (Nat.zero_lt_of_lt hr), Nat.div_eq_of_lt hr, Nat.zero_add]
  rw [txd_some hlive h, hindex, TxFrame.bits, bits_get hc hi, characterLevels_get c hi]
  rfl

/-- R154: the line is high after the last bit. -/
theorem txd_over {s : State} {f : TxFrame} (hlive : live s) (h : s.li.tx = some f)
    (hover : f.start + 11 * f.characters.length * s.li.rate.bitTime ≤ s.now) : txd s = true := by
  have hpos : 0 < s.li.rate.bitTime := by cases s.li.rate <;> decide
  have hindex : f.bits.length ≤ (s.now - f.start) / s.li.rate.bitTime := by
    rw [TxFrame.bits_length, Nat.le_div_iff_mul_le hpos]
    omega
  rw [txd_some hlive h, List.getElem?_eq_none hindex]
  rfl

/-- Settles O51: the pins of a live part, the pins while RESET_N is low, and the line bit by bit. -/
theorem outputs : Obligations.Outputs := by
  refine ⟨fun s => ?pins, fun s => txd_none, fun s f hlive hf => ?line⟩
  case pins =>
    intro code
    have hcode : ∀ l : HvLevel, code l = (l.code.testBit 1, l.code.testBit 0) := fun l => by cases l <;> rfl
    have hpins : ∀ a b, supplyEnable s .a = a → supplyEnable s .b = b → outputPins s =
        ⟨txd s, !holdOut s, !alert s, (code a).1, (code a).2, (code b).1, (code b).2⟩ := fun a b ha hb => by
      unfold outputPins supplyEnableBit
      rw [hcode, hcode, ha, hb]
    refine ⟨fun hlive => ⟨holdOut_live hlive, alert_live hlive, supplyEnable_live hlive,
      hpins _ _ (supplyEnable_live hlive .a) (supplyEnable_live hlive .b)⟩, fun hheld => ?_⟩
    have hout : holdOut s = false := by unfold holdOut; rw [hheld]; rfl
    have halert : alert s = false := by unfold alert; rw [hheld]; rfl
    have hsupply : ∀ x, supplyEnable s x = .off := fun x => by unfold supplyEnable; rw [hheld]; rfl
    refine ⟨hout, halert, hsupply, ?_⟩
    rw [hpins _ _ (hsupply .a) (hsupply .b), txd_held hheld, hout, halert]
    rfl
  case line =>
    intro bitTime
    have htime : bitTime = s.li.rate.bitTime := rfl
    clear_value bitTime
    subst htime
    exact ⟨fun n i r c hc hi hr hnow => txd_bit hlive hf hc hi hr hnow, txd_over hlive hf⟩

end Sys2Proof.Machine

/-!
The three resets (R182 to R184).
-/
namespace Sys2Proof.Machine

/-! ## The oldest held frame -/

/-- A command's kind finds its form. -/
theorem requestForms_find {c : Instr} {q : RequestForm} (h : c.form = some q) :
    requestForms.find? (fun r => decide (r.kind = q.kind)) = some q := by
  cases c <;> cases h <;> rfl

theorem requestForms_kind {q : RequestForm} (h : q ∈ requestForms) : 1 ≤ q.kind.toNat ∧ q.kind.toNat ≤ 20 := by
  obtain ⟨c, hc⟩ := form_of_mem h
  cases c <;> cases hc <;> decide

/-- A kind that names no request finds no form. -/
theorem requestForms_find_none {k : Byte} (h : k = 0#8 ∨ 20 < k.toNat) :
    requestForms.find? (fun r => decide (r.kind = k)) = none := by
  refine List.find?_eq_none.2 fun q hq hk => ?_
  obtain ⟨hlow, hhigh⟩ := requestForms_kind hq
  rw [of_decide_eq_true hk] at hlow hhigh
  rcases h with rfl | h
  · exact absurd hlow (by decide)
  · omega

theorem takeOldest_empty {s : State} (h : s.li.held = []) : takeOldest s = s := by
  have hnone : takeable s = none := by
    unfold takeable
    rw [h]
    exact ite_self _
  unfold takeOldest
  rw [hnone]

/-- R182: the oldest held frame is taken as the command of its kind takes it. -/
theorem takeOldest_request {s : State} {f : Frame} {rest : List Frame} {c : Instr} {q : RequestForm} (hc : c.form = some q)
    (h : mayTake s f rest) (hk : f.kind = q.kind) : exec c s = .next (takeOldest s) := by
  rw [exec_of_form hc, next_whenLive h.1]
  unfold takeOldest
  rw [takeable_of_mayTake h]
  dsimp only
  rw [hk, requestForms_find hc]

theorem takeOldest_unknown {s : State} {f : Frame} {rest : List Frame} (h : mayTake s f rest)
    (hk : f.kind = 0#8 ∨ 20 < f.kind.toNat) : exec .unknownRequestKind s = .next (takeOldest s) := by
  refine (next_whenLive h.1 handleUnknown).trans (congrArg Host.Outcome.next ?_)
  unfold takeOldest
  rw [takeable_of_mayTake h]
  dsimp only
  rw [requestForms_find_none hk]

/-! ## Scope RUN -/

theorem actAwaited_acts {scope : Scope} {act : State → State} {s : State} (h : s.rc.handler = .awaitingReset scope true) :
    actAwaited scope act s = act s := if_pos h

theorem actAwaited_other {scope : Scope} {act : State → State} {s : State} (h : s.rc.handler ≠ .awaitingReset scope true) :
    actAwaited scope act s = s := if_neg h

theorem runReset_eq {s s2 : State} (h : recordsTakeEffect (runCleared s) = s2) : runReset s = { s2 with
    li := { s2.li with
      runstate := some ⟨s.li.ordinal,
        ⟨⟨false, false, false, false, true⟩, .idle, .resetRun, s.du.hwm, s.ps.generation, 0, .none⟩⟩
      ordinal := s.li.ordinal + 1 }
    rc := ⟨.idle, .resetRun, .none, .ready⟩ } := by
  obtain ⟨v, c, hrecords, -⟩ := recordsTakeEffect_frame (runCleared s)
  rw [hrecords] at h
  subst h
  unfold runReset
  dsimp only
  rw [hrecords, placeRunstate_empty rfl]
  rfl

theorem runReset_held (s : State) : (runReset s).li.held = s.li.held := by
  obtain ⟨v, c, hrecords, -⟩ := recordsTakeEffect_frame (runCleared s)
  rw [runReset_eq rfl, hrecords]
  rfl

/-- R182: after its acts a RUN reset finds the handler ready to take the oldest held frame. -/
theorem runReset_mayTake {s : State} (hlive : live s) {f : Frame} {rest : List Frame} (h : s.li.held = f :: rest) :
    mayTake (runReset s) f rest := by
  obtain ⟨v, c, hrecords, -⟩ := recordsTakeEffect_frame (runCleared s)
  rw [runReset_eq rfl, hrecords]
  exact ⟨hlive, rfl, rfl, h⟩

namespace Settled

/-- Settles O52: the acts of a RUN reset, and the oldest held frame taken in the same action. -/
theorem runReset : Obligations.RunReset := by
  intro s hlive hawait s1 s2 t
  have hcleared : runCleared s = s1 := rfl
  have hrecords : recordsTakeEffect s1 = s2 := rfl
  clear_value s2 s1
  subst hcleared
  have ht : Machine.runReset s = t := runReset_eq hrecords
  clear_value t
  subst ht
  refine ⟨?_, fun hnone => takeOldest_empty ((runReset_held s).trans hnone), fun f rest hheld =>
    ⟨fun c k n hc hk => ?_, takeOldest_unknown (runReset_mayTake hlive hheld)⟩⟩
  · refine (next_whenLive hlive (actAwaited .run resetRunActs)).trans ?_
    rw [actAwaited_acts hawait, resetRunActs_eq]
  · obtain ⟨q, hq, rfl, rfl⟩ := requestForm_eq hc
    exact takeOldest_request hq (runReset_mayTake hlive hheld) hk

end Settled

/-! ## Scope FULL and the pin -/

/-- Settles O53: the acts of a FULL reset, and the resets that do not act. -/
theorem fullReset : Obligations.FullReset := by
  refine ⟨fun s hlive hawait => ?_, fun s h => next_fixed (actAwaited_other h), fun s h => next_fixed (actAwaited_other h)⟩
  intro full
  refine (next_whenLive hlive (actAwaited .full resetFullActs)).trans (congrArg Host.Outcome.next ?_)
  rw [actAwaited_acts hawait]
  exact placeRunstate_empty rfl _ _

/-- Settles O54: the fall and the rise of RESET_N, and the time between them. -/
theorem pinReset : Obligations.PinReset :=
  ⟨fun _ after hlive => next_after hlive after pinResetAssert, fun _ after pins hheld => exec_release hheld after pins,
    fun _ c hheld hc => ⟨c.passes, exec_held hheld hc⟩⟩

end Sys2Proof.Machine

/-!
The currency of the plans (R40, R52) and the law of the coupling ratings (R93, R94): which changes of a list, a profile and a
rating keep them, and that every step does.
-/
namespace Sys2Proof.Machine

/-! ## One list -/

namespace ShotList.law
variable {sc : Sc} {l : ShotList} (h : l.law sc)
include h

theorem congr {sc' : Sc} (hp : sc'.profiles = sc.profiles) : l.law sc' := by
  unfold ShotList.law at *
  rw [hp]
  exact h

/-- R46: a shot is written in the place of another or after the last. -/
theorem write {i : Nat} (sh : Shot) (hindex : i ≤ 15) (hplace : i ≤ l.shots.length) :
    (l.write i (plannedShot sc sh)).law sc := by
  obtain ⟨hlength, -, hduration⟩ := h
  unfold ShotList.write
  refine ⟨?_, rfl, fun p hp => ?_⟩
  · show (if i < l.shots.length then _ else _ : List PlannedShot).length ≤ 16
    split
    · rw [List.length_set]; exact hlength
    · rw [List.length_append, List.length_singleton]; omega
  · rw [ShotList.ofShots] at hp
    split at hp
    · rcases List.mem_or_eq_of_mem_set hp with hp | rfl
      · exact hduration p hp
      · rfl
    · rcases List.mem_append.1 hp with hp | hp
      · exact hduration p hp
      · rw [List.mem_singleton.1 hp]; rfl

/-- R52: the durations follow a change of a profile. -/
theorem profileChanged (n : Fin 4) (v : Profile) :
    (l.profileChanged n v).law { sc with profiles := sc.profiles.set n v } := by
  obtain ⟨hlength, htime, hduration⟩ := h
  have hother : ∀ p : PlannedShot, p.shot.profile ≠ n → p ∈ l.shots →
      p.duration = p.shot.durationWith (sc.profiles.set n v)[p.shot.profile] := fun p hne hp => by
    rw [hduration p hp, vector_get_set, if_neg hne]
  by_cases hnames : ∃ p ∈ l.shots, p.shot.profile = n
  · rw [ShotList.profileChanged_names v hnames]
    refine ⟨?_, rfl, fun p hp => ?_⟩
    · exact Nat.le_trans (Nat.le_of_eq (List.length_map _)) hlength
    · obtain ⟨q, hq, rfl⟩ := List.mem_map.1 hp
      split
      case isTrue hn =>
        show q.shot.durationWith v = q.shot.durationWith (sc.profiles.set n v)[q.shot.profile]
        rw [vector_get_set, if_pos hn]
      case isFalse hn => exact hother q hn hq
  · rw [ShotList.profileChanged_other v hnames]
    exact ⟨hlength, htime, fun p hp => hother p (fun hn => hnames ⟨p, hp, hn⟩) hp⟩

end ShotList.law

/-- R93: a change of a profile leaves the gates of the shots, and so the supervised set. -/
theorem ShotList.profileChanged_supervised (l : ShotList) (n : Fin 4) (v : Profile) :
    (l.profileChanged n v).supervised = l.supervised := by
  unfold ShotList.profileChanged
  split
  · unfold ShotList.supervised ShotList.withProfile ShotList.ofShots
    simp only [List.any_map]
    congr 1
    funext c
    congr 1
    funext p
    simp only [Function.comp]
    split <;> rfl
  · rfl

/-! ## One rating -/

/-- R93, R94: the law of a channel's rating, by whether the channel is supervised. -/
def ChannelCoupling.law (supervised : Bool) (r : ChannelCoupling) : Prop :=
  r.bad ≤ 15 ∧ r.good ≤ 15 ∧ (r.bad = 0 ∨ r.good = 0) ∧ (r.state = .unsupervised ↔ supervised = false) ∧
  (r.state = .unsupervised → r.bad = 0 ∧ r.good = 0)

theorem Cs.law_iff {l : ShotList} {c : Cs} : c.law l ↔ c.supervised = l.supervised ∧
    ∀ ch : Channel, (c.ratings[ch]).law (c.supervised.getLsbD ch.val) := Iff.rfl

theorem freshRating_law (supervised : Mask) (ch : Channel) :
    (freshRating supervised ch).law (supervised.getLsbD ch.val) := by
  unfold freshRating
  cases supervised.getLsbD ch.val with
  | true => exact ⟨Nat.zero_le _, Nat.zero_le _, .inl rfl, ⟨nofun, nofun⟩, nofun⟩
  | false => exact ⟨Nat.zero_le _, Nat.zero_le _, .inl rfl, ⟨fun _ => rfl, fun _ => rfl⟩, fun _ => ⟨rfl, rfl⟩⟩

/-- R94, R95: a COUPLING result counts on one side and clears the other, and leaves a supervised channel supervised. -/
theorem rate_counts {r : ChannelCoupling} (hr : r.state ≠ .unsupervised) (lose regain : Nat) (good : Bool) :
    (rate lose regain r good).1.state ≠ .unsupervised ∧
    (rate lose regain r good).1.bad = (if good then 0 else min 15 (r.bad + 1)) ∧
    (rate lose regain r good).1.good = (if good then min 15 (r.good + 1) else 0) := by
  unfold rate
  dsimp only
  generalize (if good then 0 else min 15 (r.bad + 1)) = bad, (if good then min 15 (r.good + 1) else 0) = gd
  split
  case h_9 hs => exact absurd hs hr
  case h_1 | h_4 | h_6 | h_7 => split <;> exact ⟨nofun, rfl, rfl⟩
  all_goals exact ⟨nofun, rfl, rfl⟩

theorem rate_unsupervised {r : ChannelCoupling} (hr : r.state = .unsupervised) (lose regain : Nat) (good : Bool) :
    (rate lose regain r good).1 = r := by
  unfold rate
  rw [hr]

theorem rate_law {b : Bool} {r : ChannelCoupling} (h : r.law b) (lose regain : Nat) (good : Bool) :
    (rate lose regain r good).1.law b := by
  obtain ⟨-, -, -, hstate, -⟩ := id h
  by_cases hr : r.state = .unsupervised
  · rw [rate_unsupervised hr]
    exact h
  · obtain ⟨hst, hbad, hgood⟩ := rate_counts hr lose regain good
    refine ⟨?_, ?_, ?_, iff_of_false hst (mt hstate.2 hr), fun h => absurd h hst⟩
    · rw [hbad]; split <;> omega
    · rw [hgood]; split <;> omega
    · rw [hbad, hgood]
      cases good
      · exact .inr rfl
      · exact .inl rfl

/-! ## The ratings of a side -/

theorem Cs.law_startRun (l : ShotList) : (Cs.startRun l).law l := by
  refine Cs.law_iff.2 ⟨rfl, fun ch => ?_⟩
  have hget : (Cs.startRun l).ratings[ch] = freshRating l.supervised ch := Vector.getElem_ofFn ch.isLt
  rw [hget]
  exact freshRating_law _ _

namespace Cs.law
variable {l : ShotList} {c : Cs} (h : c.law l)
include h

theorem set {ch : Channel} {r : ChannelCoupling} (hr : r.law (c.supervised.getLsbD ch.val)) :
    ({ c with ratings := c.ratings.set ch r } : Cs).law l := by
  obtain ⟨hsupervised, hratings⟩ := Cs.law_iff.1 h
  refine Cs.law_iff.2 ⟨hsupervised, fun ch' => ?_⟩
  rw [vector_get_set]
  split
  case isTrue heq => rw [heq]; exact hr
  case isFalse => exact hratings ch'

theorem refresh (ch : Channel) : (c.refresh ch).law l := h.set (freshRating_law _ _)

theorem swap (l' : ShotList) : (c.swap l').law l' := by
  obtain ⟨-, hratings⟩ := Cs.law_iff.1 h
  refine Cs.law_iff.2 ⟨rfl, fun ch => ?_⟩
  have hget : (c.swap l').ratings[ch] = if c.supervised.getLsbD ch.val && l'.supervised.getLsbD ch.val then c.ratings[ch]
      else freshRating l'.supervised ch := Vector.getElem_ofFn ch.isLt
  rw [hget]
  split
  case isTrue hboth =>
    obtain ⟨hold, hnew⟩ := Bool.and_eq_true_iff.1 hboth
    have hkept := hratings ch
    rw [hold] at hkept
    rw [show (c.swap l').supervised = l'.supervised from rfl, hnew]
    exact hkept
  case isFalse => exact freshRating_law _ _

end Cs.law

end Sys2Proof.Machine

/-!
Every step keeps the plans current and the coupling ratings in their law (R40, R52, R93, R94).
-/
namespace Sys2Proof.Machine

/-- R40, R52, R93, R94: the two laws of the plans. -/
def planLaws (s : State) : Prop := plansCurrent s ∧ couplingLaw s

/-! ## The state -/

/-- The laws rest on the lists, the profiles and the ratings. -/
theorem planLaws_of_fields {s t : State} (hs : planLaws s) (hps : t.ps = s.ps)
    (hprofiles : ∀ x, (t.sc.get x).profiles = (s.sc.get x).profiles) (hcs : t.cs = s.cs) : planLaws t := by
  obtain ⟨hplans, hcoupling⟩ := hs
  refine ⟨fun x => ?_, fun x => ?_⟩
  · rw [hps]
    obtain ⟨hactive, hstaged⟩ := hplans x
    exact ⟨hactive.congr (hprofiles x), hstaged.congr (hprofiles x)⟩
  · rw [hps, hcs]
    exact hcoupling x

theorem planLaws_of_same {s t : State} (hs : planLaws s) (hps : t.ps = s.ps) (hsc : t.sc = s.sc) (hcs : t.cs = s.cs) :
    planLaws t := planLaws_of_fields hs hps (fun _ => by rw [hsc]) hcs

theorem planLaws_setTrack {s : State} (k : Track) (hs : planLaws s) : planLaws (s.setTrack k) :=
  planLaws_of_same hs rfl rfl rfl

theorem planLaws_setRecorder {s : State} (x : Side) (r : Recorder) (hs : planLaws s) : planLaws (s.setRecorder x r) :=
  planLaws_of_same hs rfl rfl rfl

theorem planLaws_setIt {s : State} (t : It) (hs : planLaws s) : planLaws (s.setIt t) := planLaws_of_same hs rfl rfl rfl

theorem planLaws_setSe {s : State} (x : Side) (v : Se) (hs : planLaws s) : planLaws (s.setSe x v) :=
  planLaws_of_same hs rfl rfl rfl

theorem planLaws_setLi {s : State} (l : Li) (hs : planLaws s) : planLaws (s.setLi l) := planLaws_of_same hs rfl rfl rfl

theorem planLaws_setRc {s : State} (r : Rc) (hs : planLaws s) : planLaws (s.setRc r) := planLaws_of_same hs rfl rfl rfl

theorem planLaws_reset {s : State} (hps : s.ps = Ps.reset) (hcs : s.cs = ⟨Cs.reset, Cs.reset⟩) : planLaws s :=
  ⟨plansCurrent_reset hps, couplingLaw_reset hps hcs⟩

theorem Internal.profiles {s t : State} (h : Internal s t) (x : Side) :
    (t.sc.get x).profiles = (s.sc.get x).profiles := by
  obtain ⟨ch, pr, hsc⟩ := h.sc x
  rw [hsc]

theorem State.modifySc_profiles (s : State) (x : Side) {g : Sc → Sc} (hg : ∀ c, (g c).profiles = c.profiles) (y : Side) :
    ((s.modifySc x g).sc.get y).profiles = (s.sc.get y).profiles := by
  show ((s.sc.set x (g (s.sc.get x))).get y).profiles = _
  rw [PerSide.get_set]
  split
  case isTrue heq => rw [hg, heq]
  case isFalse => rfl

theorem planLaws_setCs {s : State} {x : Side} {c : Cs} (hs : planLaws s) (hc : c.law (s.ps.active.get x)) :
    planLaws (s.setCs x c) := by
  obtain ⟨hplans, hcoupling⟩ := hs
  refine ⟨hplans, fun y => ?_⟩
  show ((s.cs.set x c).get y).law (s.ps.active.get y)
  rw [PerSide.get_set]
  split
  case isTrue heq => rw [heq]; exact hc
  case isFalse => exact hcoupling y

theorem commitDu_planLaws {s : State} (latch : MotionCauses) (d : Du) (hs : planLaws s) :
    planLaws (commitDu latch d s) := by
  obtain ⟨l, heq, -⟩ := commitDu_frame latch d s
  rw [heq]
  exact hs

/-- R54, R98: the lists change places, and the ratings follow the list that becomes ACTIVE. -/
theorem swapPlans_planLaws {s : State} (hs : planLaws s) : planLaws (swapPlans s) := by
  obtain ⟨hplans, hcoupling⟩ := hs
  refine ⟨fun x => ?_, fun x => ?_⟩
  · obtain ⟨hactive, hstaged⟩ := hplans x
    have hprofiles := (swapPlans_internal s).profiles x
    rw [swapPlans_ps]
    exact ⟨hstaged.congr hprofiles, hactive.congr hprofiles⟩
  · rw [swapPlans_ps, swapPlans_cs]
    exact (hcoupling x).swap _

/-- R31, R99: a record changes no profile, and the channel's rating starts afresh. -/
theorem recordTakesEffect_planLaws {s : State} (x : Side) (ch : Channel) (hs : planLaws s) :
    planLaws (recordTakesEffect x s ch) := by
  cases hr : (s.sc.get x).pendingRecords[ch] with
  | none => rw [recordTakesEffect_none hr]; exact hs
  | some r =>
    rw [recordTakesEffect_some hr]
    exact planLaws_setCs (planLaws_of_fields hs rfl (s.modifySc_profiles x fun _ => rfl) rfl) ((hs.2 x).refresh ch)

theorem stepEvaluation_planLaws {s : State} (x : Side) (hs : planLaws s) : planLaws (stepEvaluation x s) := by
  unfold stepEvaluation
  split
  · exact hs
  · exact planLaws_setSe x _ (planLaws_setRecorder x _ (planLaws_setTrack _ hs))

theorem planLaws_innerKept : InnerKept planLaws where
  runstate _ _ hs := planLaws_setLi _ hs
  swap := swapPlans_planLaws
  record x ch hs := recordTakesEffect_planLaws x ch hs
  gaps x hs := by unfold drainGaps; exact planLaws_setRecorder x _ hs
  free _ hs := hs
  run _ _ _ _ hs := planLaws_setRc _ hs
  release hs := by unfold releaseClusters; exact planLaws_setTrack _ hs
  closing _ hs := planLaws_setTrack _ hs
  sealing hs := planLaws_setIt _ hs
  side _ _ _ hs := planLaws_setLi _ hs
  coupling _ _ _ hs := planLaws_setLi _ hs
  step x hs := stepEvaluation_planLaws x hs
  engine x v hs := planLaws_setSe x v hs

theorem planLaws_sideKept : SideKept planLaws where
  modify x _ hg hs := planLaws_of_fields hs rfl (State.modifySc_profiles _ x hg) rfl
  raise x e hs := planLaws_innerKept.raiseSide x e hs
  abort x hs := planLaws_innerKept.abortList x hs
  waits _ hs := hs

/-- R94, R95: a COUPLING result. -/
theorem couplingResult_planLaws {s : State} (x : Side) (ch : Channel) (good : Bool) (hs : planLaws s) :
    planLaws (couplingResult x ch good s) := by
  have hrated : ∀ lose regain, planLaws (s.setCs x { s.cs.get x with
      ratings := (s.cs.get x).ratings.set ch (rate lose regain (s.cs.get x).ratings[ch] good).1 }) := fun lose regain =>
    planLaws_setCs hs ((hs.2 x).set (rate_law ((Cs.law_iff.1 (hs.2 x)).2 ch) lose regain good))
  unfold couplingResult
  dsimp only
  split
  · exact hrated _ _
  · exact planLaws_innerKept.raiseCoupling x _ ch (hrated _ _)

/-! ## Requests -/

/-- R35, R52: the lists of the side follow the profile. -/
theorem setProfile_planLaws {s : State} (x : Side) (n : Fin 4) (v : Profile) (hs : planLaws s) :
    planLaws (setProfile x n v s) := by
  obtain ⟨hplans, hcoupling⟩ := hs
  have hsc : ∀ y, (setProfile x n v s).sc.get y =
      if y = x then { s.sc.get x with profiles := (s.sc.get x).profiles.set n v } else s.sc.get y := fun y =>
    PerSide.get_set _ _ _ _
  have hactive : ∀ y, (setProfile x n v s).ps.active.get y =
      if y = x then (s.ps.active.get x).profileChanged n v else s.ps.active.get y := fun y => PerSide.get_set _ _ _ _
  have hstaged : ∀ y, (setProfile x n v s).ps.staged.get y =
      if y = x then (s.ps.staged.get x).profileChanged n v else s.ps.staged.get y := fun y => PerSide.get_set _ _ _ _
  refine ⟨fun y => ?_, fun y => ?_⟩
  · rw [hsc, hactive, hstaged]
    split
    · exact ⟨(hplans x).1.profileChanged n v, (hplans x).2.profileChanged n v⟩
    · exact hplans y
  · show (s.cs.get y).law _
    rw [hactive]
    split
    case isTrue heq =>
      rw [heq]
      unfold Cs.law
      rw [ShotList.profileChanged_supervised]
      exact hcoupling x
    case isFalse => exact hcoupling y

theorem writeShot_planLaws {s : State} (x : Side) {i : Nat} (sh : Shot) (hindex : i ≤ 15)
    (hplace : i ≤ (s.ps.staged.get x).shots.length) (hs : planLaws s) :
    planLaws (writeShot x i (plannedShot (s.sc.get x) sh) s).2 := by
  obtain ⟨hplans, hcoupling⟩ := hs
  refine ⟨fun y => ⟨(hplans y).1, ?_⟩, hcoupling⟩
  show ((s.ps.staged.set x ((s.ps.staged.get x).write i (plannedShot (s.sc.get x) sh))).get y).law (s.sc.get y)
  rw [PerSide.get_set]
  split
  case isTrue heq => rw [heq]; exact (hplans x).2.write sh hindex hplace
  case isFalse => exact (hplans y).2

theorem clearStaged_planLaws {s : State} (sides : List Side) (hs : planLaws s) : planLaws (clearStaged sides s) := by
  obtain ⟨hplans, hcoupling⟩ := hs
  refine ⟨fun y => ⟨(hplans y).1, ?_⟩, hcoupling⟩
  have hcleared : ∀ (sides : List Side) (slot : PerSide ShotList), (∀ y, (slot.get y).law (s.sc.get y)) →
      ∀ y, ((sides.foldl (fun slot x => slot.set x ShotList.reset) slot).get y).law (s.sc.get y) := by
    intro sides
    induction sides with
    | nil => exact fun _ h => h
    | cons x sides ih =>
      refine fun slot h => ih _ fun y => ?_
      rw [PerSide.get_set]
      split
      · exact ShotList.law_reset _
      · exact h y
  exact hcleared sides _ (fun y => (hplans y).2) y

/-- R97: every rating starts afresh. -/
theorem startRun_planLaws {s : State} (hs : planLaws s) : planLaws (startRun s) := by
  refine ⟨hs.1, fun x => ?_⟩
  cases x
  · exact Cs.law_startRun _
  · exact Cs.law_startRun _

theorem setChannel_planLaws {s : State} (x : Side) (ch : Channel) (r : ChannelRecord) (hs : planLaws s) :
    planLaws (setChannel x ch r s) := by
  have hset := planLaws_sideKept.modify x (fun sc => { sc with pendingRecords := sc.pendingRecords.set ch (some r) })
    (fun _ => rfl) hs
  unfold setChannel
  dsimp only
  split
  · exact recordTakesEffect_planLaws x ch hset
  · exact hset

theorem planLaws_of_effect {c : Instr} {s t : State} (h : Effect c s t) (hs : planLaws s) : planLaws t := by
  cases h with
  | setOdometry => exact commitDu_planLaws _ _ hs
  | presetPosition => exact commitDu_planLaws _ _ hs
  | setSide => exact planLaws_sideKept.setSide _ _ _ _ hs
  | @armSide _ x => exact planLaws_sideKept.supplyFaultCheck _ (planLaws_sideKept.enterArming x hs)
  | disarmSide => exact planLaws_sideKept.disarmSide _ hs
  | clearSideFault => exact planLaws_sideKept.clearSideFault _ hs
  | @clearChannelFault _ x ch => exact planLaws_of_fields hs rfl (s.modifySc_profiles x fun _ => rfl) rfl
  | setChannel => exact setChannel_planLaws _ _ _ hs
  | setProfile => exact setProfile_planLaws _ _ _ hs
  | writeShot index place => exact writeShot_planLaws _ _ index place hs
  | clearStaged => exact clearStaged_planLaws _ hs
  | swapNow => exact swapPlans_planLaws hs
  | startRun => exact startRun_planLaws hs
  | stopRun => exact planLaws_innerKept.beginStop _ hs
  | _ => exact hs

theorem planLaws_of_taking {c : Instr} {s t : State} (h : Taking c s t) (hs : planLaws s) : planLaws t := by
  obtain ⟨a, -, effect⟩ := h
  exact planLaws_of_same (planLaws_of_effect effect (planLaws_of_same hs rfl rfl rfl)) rfl rfl rfl

/-! ## Events -/

theorem planLaws_of_sending {s t : State} (h : Sending s t) (hs : planLaws s) : planLaws t := by
  cases h with
  | nothing | frame | motion => exact hs
  | @flaw l => exact planLaws_innerKept.drainEndTest (planLaws_innerKept.release (s := s.setLi l) hs)

theorem resetRunActs_planLaws {s : State} (hs : planLaws s) : planLaws (resetRunActs s) := by
  have hcleared : planLaws (runCleared s) := hs
  have hreset : planLaws (runReset s) :=
    planLaws_setRc _ (planLaws_innerKept.runstate _ _ (planLaws_innerKept.records hcleared))
  rw [resetRunActs_eq]
  rcases takeOldest_cases (runReset s) with h | ⟨c, h⟩
  · rw [h]; exact hreset
  · exact planLaws_of_taking h hreset

theorem forwardCount_planLaws {s : State} (first : Side) (hs : planLaws s) : planLaws (forwardCount first s) := by
  unfold forwardCount
  dsimp only
  split
  · exact commitDu_planLaws _ _ hs
  · split
    · split
      · exact planLaws_innerKept.fireBoundary (fun _ _ h => h)
          (fun _ _ h => planLaws_innerKept.release (planLaws_setIt _ h)) first _ (commitDu_planLaws _ _ hs)
      · exact commitDu_planLaws _ _ hs
    · exact planLaws_innerKept.beginStop _ (commitDu_planLaws _ _ hs)

theorem planLaws_of_event {c : Instr} {s t : State} (h : Event c s t) (hs : planLaws s) : planLaws t := by
  cases h with
  | forwardCount => exact forwardCount_planLaws _ hs
  | reverseCount =>
    unfold reverseCount
    dsimp only
    split
    · exact commitDu_planLaws _ _ hs
    · split <;> exact commitDu_planLaws _ _ hs
  | illegalTransition => exact commitDu_planLaws _ _ hs
  | standstillTimerExpiry =>
    unfold standstillExpiry
    split
    · exact hs
    · exact commitDu_planLaws _ _ hs
  | @carriageInputChange _ _ x => exact planLaws_of_fields hs rfl (s.modifySc_profiles x fun _ => rfl) rfl
  | debounceExpiry => exact planLaws_sideKept.debounceExpiry _ hs
  | hvrdyArrival => exact planLaws_sideKept.hvrdyArrival _ hs
  | @hvrdyFall _ _ x => exact planLaws_of_fields hs rfl (s.modifySc_profiles x fun _ => rfl) rfl
  | hvfltAsserted => exact planLaws_sideKept.hvfltChange _ _ hs
  | rampTimerExpiry => exact planLaws_sideKept.rampExpiry _ hs
  | planSwapAtBoundary => exact planLaws_innerKept.planSwapAtBoundary hs
  | channelRecordTakesEffect =>
    split
    · exact recordTakesEffect_planLaws _ _ hs
    · exact hs
  | shotCompletion =>
    exact completeShot_keeps (P := planLaws) (fun _ _ h => h) (fun _ y ch l h => planLaws_sideKept.loadFault y ch l h)
      (fun _ y ch good h => couplingResult_planLaws y ch good h)
      (fun _ y due g h => planLaws_innerKept.reachShots y due (planLaws_innerKept.engine y _ h)) _ _ _ hs
  | stepEvaluation => exact planLaws_innerKept.drainTest (stepEvaluation_planLaws _ hs)
  | clusterRelease => exact planLaws_innerKept.drainEndTest (planLaws_setTrack _ hs)
  | drainReleasePhase => exact planLaws_innerKept.drainTest hs
  | drainEnd => exact planLaws_innerKept.drainEndTest hs
  | idleTimerExpiry =>
    unfold idleExpiry
    split <;> exact hs
  | holdInRelease => exact planLaws_of_sending (transmissionStart_cases _) hs
  | transmissionStart => exact planLaws_of_sending (transmissionStart_cases s) hs
  | transmissionEnd =>
    unfold transmissionEnd
    split <;> exact hs
  | resetRunActs => exact actAwaited_keeps (P := planLaws) hs (resetRunActs_planLaws hs)
  | resetFullActs => exact actAwaited_keeps (P := planLaws) hs (planLaws_reset rfl rfl)
  | _ => exact hs

/-- Settles O57: the lists, the profiles and the ratings change together. -/
theorem planLawsKept : Obligations.PlanLawsKept := by
  intro s t hplans hcoupling h
  exact step_keeps (P := planLaws) (fun _ _ _ hu => hu) (fun _ _ => planLaws_reset rfl rfl)
    (fun _ _ _ _ hu ht => planLaws_of_taking ht hu) (fun _ _ _ _ hu he => planLaws_of_event he hu) ⟨hplans, hcoupling⟩ h

end Sys2Proof.Machine

/-!
The run state and the blocks (R57, R76, R179): in IDLE the engines are IDLE, the table and the gaps are empty and no swap is
pending. An operation either keeps the run state outside IDLE, or finds nothing to do in IDLE, or is the end of the drain.
-/
namespace Sys2Proof.Machine

/-! ## The law -/

/-- Outside IDLE the law speaks of Run Control alone. -/
theorem runLaw_of_active {s t : State} (hs : runLaw s) (hactive : s.rc.run ≠ .idle) (hrc : t.rc = s.rc) : runLaw t := by
  refine ⟨fun h => absurd (hrc ▸ h) hactive, fun h => ?_⟩
  rw [hrc] at h ⊢
  exact hs.2 h

theorem runLaw_of_stopping {s : State} (h : s.rc.run = .stopping) : runLaw s :=
  ⟨fun hidle => (nomatch h.symm.trans hidle), fun hne => absurd h hne⟩

theorem runLaw_of_fields {s t : State} (hs : runLaw s) (hrc : t.rc = s.rc) (hse : t.se = s.se) (hit : t.it.table = s.it.table)
    (hgr : t.gr = s.gr) (hps : t.ps.swapPending = s.ps.swapPending) : runLaw t := by
  have hidle : enginesIdle t = enginesIdle s := by unfold enginesIdle; rw [hse]
  have hempty : t.it.empty = s.it.empty := by unfold It.empty; rw [hit]
  unfold runLaw
  rw [hrc, hidle, hempty, hgr, hps]
  exact hs

/-- The engines of an IDLE run have no list and no record. -/
theorem runLaw.engine {s : State} (hs : runLaw s) (hidle : s.rc.run = .idle) (x : Side) :
    (s.se.get x).firing = none ∧ (s.se.get x).finished = [] := (enginesIdle_iff s).1 (hs.1 hidle).1 x

theorem runLaw.table {s : State} (hs : runLaw s) (hidle : s.rc.run = .idle) : s.it.empty = true := by
  obtain ⟨-, hempty, -⟩ := hs.1 hidle
  exact hempty

theorem runLaw.noSwap {s : State} (hs : runLaw s) (hidle : s.rc.run = .idle) : s.ps.swapPending = false := by
  obtain ⟨-, -, -, -, hswap⟩ := hs.1 hidle
  exact hswap

/-! ## The drain -/

@[simp] theorem recordsTakeEffect_it (s : State) : (recordsTakeEffect s).it = s.it := by
  obtain ⟨v, c, heq, -⟩ := recordsTakeEffect_frame s
  rw [heq]

@[simp] theorem recordsTakeEffect_gr (s : State) : (recordsTakeEffect s).gr = s.gr := by
  obtain ⟨v, c, heq, -⟩ := recordsTakeEffect_frame s
  rw [heq]

@[simp] theorem recordsTakeEffect_ps (s : State) : (recordsTakeEffect s).ps = s.ps := by
  obtain ⟨v, c, heq, -⟩ := recordsTakeEffect_frame s
  rw [heq]

/-- R57, R179: at the end of the drain the gaps are closed and a pending swap is carried out; what was empty stays so. -/
theorem drainEnd_runLaw {s : State} (hidle : enginesIdle s = true) (hempty : s.it.empty = true) : runLaw (drainEnd s) := by
  have hgaps : ∀ x, ((drainEnd s).gr.get x).noneOpen = true := fun x => by
    rw [Gr.noneOpen_iff, drainEnd_gr]
    exact drainBothGaps_get s x
  obtain ⟨b, v, p, c, g, l, n, hframe, -, -, hp, -⟩ := drainEnd_frame s
  have hswap : p.swapPending = false := by
    rw [hp]
    cases hpending : s.ps.swapPending with
    | true => rfl
    | false => exact hpending
  refine ⟨fun _ => ⟨?_, ?_, hgaps .a, hgaps .b, ?_⟩, fun _ => ?_⟩
  · rw [hframe]; exact hidle
  · rw [hframe]; exact hempty
  · rw [hframe]; exact hswap
  · rw [hframe]

theorem drainEndTest_runLaw {s : State} (hs : runLaw s) : runLaw (drainEndTest s) := by
  unfold drainEndTest
  split
  case isTrue hcomplete =>
    simp only [drainComplete, Bool.and_eq_true] at hcomplete
    obtain ⟨⟨-, hempty⟩, hidle⟩ := hcomplete
    exact drainEnd_runLaw hidle hempty
  case isFalse => exact hs

theorem releasePhase_runLaw {s : State} (h : s.rc.run = .stopping) : runLaw (releasePhase s) := by
  unfold releasePhase
  refine drainEndTest_runLaw (runLaw_of_stopping ?_)
  rw [forcedRelease_rc, State.setTrack_rc]
  exact h

theorem drainTest_runLaw {s : State} (hs : runLaw s) : runLaw (drainTest s) := by
  unfold drainTest
  split
  case isTrue hdone =>
    simp only [listsDone, Bool.and_eq_true, decide_eq_true_eq] at hdone
    obtain ⟨⟨hrun, -⟩, -⟩ := hdone
    exact releasePhase_runLaw hrun
  case isFalse => exact hs

theorem beginStop_runLaw {s : State} (c : StopCause) (hs : runLaw s) : runLaw (beginStop c s) := by
  unfold beginStop
  split
  · exact drainTest_runLaw (runLaw_of_stopping (by rw [placeRunstate_rc]; rfl))
  · exact hs

/-! ## Events -/

theorem setLi_runLaw {s : State} (l : Li) (hs : runLaw s) : runLaw (s.setLi l) := hs

theorem dispose_runLaw {s : State} (d : Disposition) (place : Bool → Li → Li) (hs : runLaw s) :
    runLaw (dispose d place s) := by
  cases d with
  | ignore => exact hs
  | report => exact setLi_runLaw _ hs
  | alert => exact setLi_runLaw _ hs
  | halt => exact beginStop_runLaw _ (setLi_runLaw _ hs)

theorem raiseSide_runLaw {s : State} (x : Side) (e : SideEvent) (hs : runLaw s) : runLaw (raiseSide x e s) :=
  dispose_runLaw _ _ hs

theorem raiseCoupling_runLaw {s : State} (x : Side) (e : SideEvent) (ch : Channel) (hs : runLaw s) :
    runLaw (raiseCoupling x e ch s) := dispose_runLaw _ _ hs

theorem couplingResult_runLaw {s : State} (x : Side) (ch : Channel) (good : Bool) (hs : runLaw s) :
    runLaw (couplingResult x ch good s) := by
  unfold couplingResult
  dsimp only
  split
  · exact hs
  · exact raiseCoupling_runLaw x _ ch hs

/-! ## The engine -/

theorem evaluateFinished_runLaw {s : State} (x : Side) (hactive : s.rc.run ≠ .idle) (hs : runLaw s) :
    runLaw (evaluateFinished x s) :=
  drainTest_runLaw (runLaw_of_active hs hactive (evaluateTimes_rc x _ s))

/-- The engines are as idle as before when what a FIRING engine holds is changed. -/
theorem modifyFiring_enginesIdle (s : State) (x : Side) (g : Firing → Firing) :
    enginesIdle (s.modifyFiring x g) = enginesIdle s := by
  have hside : ∀ y, ((s.modifyFiring x g).se.get y).isIdle = (s.se.get y).isIdle := fun y => by
    show ((s.se.set x { s.se.get x with firing := (s.se.get x).firing.map g }).get y).isIdle = _
    rw [PerSide.get_set]
    split
    case isTrue heq => rw [heq, Se.isIdle, Se.isIdle, Option.isNone_map]
    case isFalse => rfl
  unfold enginesIdle
  rw [hside, hside]

theorem modifyFiring_runLaw {s : State} (x : Side) (g : Firing → Firing) (hs : runLaw s) : runLaw (s.modifyFiring x g) := by
  unfold runLaw
  rw [modifyFiring_enginesIdle]
  exact hs

/-- A list that ends was begun in a run. -/
theorem endOfList_runLaw {s : State} (x : Side) (hs : runLaw s) : runLaw (endOfList x s) := by
  unfold endOfList
  split
  case h_1 => exact hs
  case h_2 f hf =>
    have hactive : s.rc.run ≠ .idle := fun hidle => nomatch hf.symm.trans (hs.engine hidle x).1
    exact evaluateFinished_runLaw x hactive (runLaw_of_active hs hactive rfl)

theorem reachShots_runLaw (x : Side) : ∀ (due : List Nat) {s : State}, runLaw s → runLaw (reachShots x due s)
  | [], _, hs => endOfList_runLaw x hs
  | i :: due, s, hs => by
    have hnext : ∀ g, runLaw (reachShots x due (s.modifyFiring x g)) := fun g =>
      reachShots_runLaw x due (modifyFiring_runLaw x g hs)
    unfold reachShots
    split
    · exact hnext _
    · split
      · exact hnext _
      · split
        · exact modifyFiring_runLaw x _ hs
        · exact hnext _

theorem abortList_runLaw {s : State} (x : Side) (hs : runLaw s) : runLaw (abortList x s) := by
  unfold abortList
  split
  · exact hs
  · exact endOfList_runLaw x (modifyFiring_runLaw x _ hs)

theorem runLaw_sideKept : SideKept runLaw where
  modify _ _ _ hs := hs
  raise x e hs := raiseSide_runLaw x e hs
  abort x hs := abortList_runLaw x hs
  waits _ hs := hs

/-- R108: in IDLE no record waits for its evaluation. -/
theorem stepEvaluation_runLaw {s : State} (x : Side) (hs : runLaw s) : runLaw (stepEvaluation x s) := by
  by_cases hidle : s.rc.run = .idle
  · unfold stepEvaluation
    rw [(hs.engine hidle x).2]
    exact hs
  · exact runLaw_of_active hs hidle (stepEvaluation_rc x s)

/-! ## The tracker -/

theorem It.front_empty {t : It} (h : t.empty = true) : t.front = none := by
  refine It.front_none_iff.2 fun i _ _ _ _ hi => ?_
  rw [It.empty_iff.1 h i] at hi
  cases hi

theorem Track.releaseFront_empty {hwm : Int} {k : Track} (h : k.it.empty = true) : k.releaseFront hwm = k := by
  unfold Track.releaseFront
  rw [It.front_empty h]

theorem Track.releaseAll_empty {hwm : Int} {k : Track} (h : k.it.empty = true) : k.releaseAll hwm = k := by
  have hloop : ∀ n, k.releaseLoop hwm n = k := fun n => by
    induction n with
    | zero => rfl
    | succ n ih => rw [Track.releaseLoop, Track.releaseFront_empty h, ih]
  exact hloop 64

theorem releaseClusters_runLaw {s : State} (hs : runLaw s) : runLaw (releaseClusters s) := by
  by_cases hidle : s.rc.run = .idle
  · unfold releaseClusters
    rw [Track.releaseAll_empty (k := s.track) (hs.table hidle)]
    exact hs
  · exact runLaw_of_active hs hidle (releaseClusters_rc s)

theorem releaseFront_runLaw {s : State} (hs : runLaw s) : runLaw (s.setTrack (s.track.releaseFront s.du.hwm)) := by
  by_cases hidle : s.rc.run = .idle
  · rw [Track.releaseFront_empty (k := s.track) (hs.table hidle)]
    exact hs
  · exact runLaw_of_active hs hidle (State.setTrack_rc s _)

/-! ## The plan and the boundary -/

theorem commitDu_runLaw {s : State} (latch : MotionCauses) (d : Du) (hs : runLaw s) : runLaw (commitDu latch d s) := by
  obtain ⟨l, heq, -⟩ := commitDu_frame latch d s
  rw [heq]
  exact hs

/-- A swap leaves no swap pending. -/
theorem swapPlans_runLaw {s : State} (hs : runLaw s) : runLaw (swapPlans s) := by
  obtain ⟨b, c, l, hframe, -⟩ := swapPlans_frame s
  rw [hframe]
  refine ⟨fun hidle => ?_, hs.2⟩
  obtain ⟨hengines, hempty, ha, hb, -⟩ := hs.1 hidle
  exact ⟨hengines, hempty, ha, hb, rfl⟩

theorem recordTakesEffect_runLaw {s : State} (x : Side) (ch : Channel) (hs : runLaw s) :
    runLaw (recordTakesEffect x s ch) := by
  unfold recordTakesEffect
  split <;> exact hs

/-- R57: in IDLE no swap waits for a boundary. -/
theorem planSwapAtBoundary_runLaw {s : State} (hs : runLaw s) : runLaw (planSwapAtBoundary s) := by
  by_cases hidle : s.rc.run = .idle
  · rw [planSwapAtBoundary_stays (.inr (.inl (hs.noSwap hidle)))]
    exact hs
  · exact runLaw_of_active hs hidle (planSwapAtBoundary_rc s)

/-- R4, R55: the boundary's work is done in RUNNING, and leaves the run there. -/
theorem forwardCount_runLaw {s : State} (first : Side) (hs : runLaw s) : runLaw (forwardCount first s) := by
  unfold forwardCount
  dsimp only
  split
  · exact commitDu_runLaw _ _ hs
  · split
    · split
      case isTrue hboundary =>
        have hrun : s.rc.run = .running := by
          simp only [isFireBoundary, Bool.and_eq_true, decide_eq_true_eq] at hboundary
          exact hboundary.1
        have hmoved : ∀ d, (commitDu noLatch d s).rc.run = .running := fun d => by rw [commitDu_rc]; exact hrun
        exact runLaw_of_active (commitDu_runLaw _ _ hs) (by rw [hmoved]; decide)
          (fireBoundary_rc (by rw [hmoved]; decide) first _)
      case isFalse => exact commitDu_runLaw _ _ hs
    · exact beginStop_runLaw _ (commitDu_runLaw _ _ hs)

/-! ## Requests -/

theorem startRun_runLaw {s : State} (hidle : s.rc.run = .idle) (hs : runLaw s) : runLaw (startRun s) := by
  have hdrain : s.rc.drain = .none := hs.2 (by rw [hidle]; decide)
  have hrc : (startRun s).rc = { s.rc with run := .running, cause := .none } := placeRunstate_rc _ _ _
  refine ⟨fun h => ?_, fun _ => ?_⟩
  · rw [hrc] at h; cases h
  · rw [hrc]; exact hdrain

theorem setChannel_runLaw {s : State} (x : Side) (ch : Channel) (r : ChannelRecord) (hs : runLaw s) :
    runLaw (setChannel x ch r s) := by
  unfold setChannel
  dsimp only
  split
  · exact recordTakesEffect_runLaw x ch hs
  · exact hs

theorem runLaw_of_effect {c : Instr} {s t : State} (h : Effect c s t) (hs : runLaw s) : runLaw t := by
  cases h with
  | setOdometry => exact commitDu_runLaw _ _ hs
  | presetPosition => exact commitDu_runLaw _ _ hs
  | setSide => exact runLaw_sideKept.setSide _ _ _ _ hs
  | @armSide _ x => exact runLaw_sideKept.supplyFaultCheck _ (runLaw_sideKept.enterArming x hs)
  | disarmSide => exact runLaw_sideKept.disarmSide _ hs
  | clearSideFault => exact runLaw_sideKept.clearSideFault _ hs
  | setChannel => exact setChannel_runLaw _ _ _ hs
  | swapNow => exact swapPlans_runLaw hs
  | swapLater busy => exact runLaw_of_active hs busy rfl
  | startRun idle => exact startRun_runLaw idle hs
  | stopRun => exact beginStop_runLaw _ hs
  | _ => exact hs

theorem runLaw_of_taking {c : Instr} {s t : State} (h : Taking c s t) (hs : runLaw s) : runLaw t := by
  obtain ⟨a, -, effect⟩ := h
  exact setLi_runLaw _ (runLaw_of_effect effect (setLi_runLaw _ hs))

/-! ## Every step -/

theorem runLaw_of_sending {s t : State} (h : Sending s t) (hs : runLaw s) : runLaw t := by
  cases h with
  | nothing | frame | motion => exact hs
  | @flaw l => exact drainEndTest_runLaw (releaseClusters_runLaw (setLi_runLaw l hs))

theorem runReset_runLaw (s : State) : runLaw (runReset s) := by
  have hcleared : runLaw (runCleared s) := runLaw_quiet rfl freeTable_get rfl rfl rfl
  obtain ⟨v, c, hrecords, -⟩ := recordsTakeEffect_frame (runCleared s)
  unfold runReset
  rw [hrecords]
  exact hcleared

theorem resetRunActs_runLaw (s : State) : runLaw (resetRunActs s) := by
  rw [resetRunActs_eq]
  rcases takeOldest_cases (runReset s) with h | ⟨c, h⟩
  · rw [h]; exact runReset_runLaw s
  · exact runLaw_of_taking h (runReset_runLaw s)

theorem runLaw_of_event {c : Instr} {s t : State} (h : Event c s t) (hs : runLaw s) : runLaw t := by
  cases h with
  | forwardCount => exact forwardCount_runLaw _ hs
  | reverseCount =>
    unfold reverseCount
    dsimp only
    split
    · exact commitDu_runLaw _ _ hs
    · split <;> exact commitDu_runLaw _ _ hs
  | illegalTransition => exact commitDu_runLaw _ _ hs
  | standstillTimerExpiry =>
    unfold standstillExpiry
    split
    · exact hs
    · exact commitDu_runLaw _ _ hs
  | debounceExpiry => exact runLaw_sideKept.debounceExpiry _ hs
  | hvrdyArrival => exact runLaw_sideKept.hvrdyArrival _ hs
  | hvfltAsserted => exact runLaw_sideKept.hvfltChange _ _ hs
  | rampTimerExpiry => exact runLaw_sideKept.rampExpiry _ hs
  | planSwapAtBoundary => exact planSwapAtBoundary_runLaw hs
  | channelRecordTakesEffect =>
    split
    · exact recordTakesEffect_runLaw _ _ hs
    · exact hs
  | shotCompletion =>
    exact completeShot_keeps (P := runLaw) (fun _ _ h => h) (fun _ y ch l h => runLaw_sideKept.loadFault y ch l h)
      (fun _ y ch good h => couplingResult_runLaw y ch good h)
      (fun _ y due g h => reachShots_runLaw y due (modifyFiring_runLaw y g h)) _ _ _ hs
  | stepEvaluation => exact drainTest_runLaw (stepEvaluation_runLaw _ hs)
  | clusterRelease => exact drainEndTest_runLaw (releaseFront_runLaw hs)
  | drainReleasePhase => exact drainTest_runLaw hs
  | drainEnd => exact drainEndTest_runLaw hs
  | idleTimerExpiry =>
    unfold idleExpiry
    split <;> exact hs
  | holdInRelease => exact runLaw_of_sending (transmissionStart_cases _) hs
  | transmissionStart => exact runLaw_of_sending (transmissionStart_cases s) hs
  | transmissionEnd =>
    unfold transmissionEnd
    split <;> exact hs
  | resetRunActs => exact actAwaited_keeps (P := runLaw) hs (resetRunActs_runLaw s)
  | resetFullActs => exact actAwaited_keeps (P := runLaw) hs (runLaw_quiet rfl freeTable_get rfl rfl rfl)
  | pinResetAssert => exact ⟨fun hidle => ⟨rfl, (hs.1 hidle).2⟩, hs.2⟩
  | _ => exact hs

/-- Settles O60: what runs outside IDLE stays outside, and the end of the drain and the resets leave the blocks empty. -/
theorem runLawKept : Obligations.RunLawKept := by
  intro s t hs h
  exact step_keeps (P := runLaw) (fun _ _ _ hu => hu) (fun _ _ => runLaw_quiet rfl freeTable_get rfl rfl rfl)
    (fun _ _ _ _ hu ht => runLaw_of_taking ht hu) (fun _ _ _ _ hu he => runLaw_of_event he hu) hs h

end Sys2Proof.Machine

/-!
What the work outside the engines leaves of the state of step evaluation (R8, R9, R120).
-/
namespace Sys2Proof.Machine

/-- The engines, the verdicts, the high-water mark and the step are kept, no run begins, and an empty table stays so. -/
structure Steady (s t : State) : Prop where
  se : t.se = s.se
  verdicts : t.it.verdicts = s.it.verdicts
  hwm : t.du.hwm = s.du.hwm
  step : t.du.step = s.du.step
  boundary : t.boundary = s.boundary
  pinReset : t.pinReset = s.pinReset
  run : t.rc.run = .running → s.rc.run = .running
  empty : s.it.empty = true → t.it.empty = true

namespace Steady

theorem refl (s : State) : Steady s s := ⟨rfl, rfl, rfl, rfl, rfl, rfl, id, id⟩

theorem trans {s t u : State} (h : Steady s t) (k : Steady t u) : Steady s u :=
  ⟨k.se.trans h.se, k.verdicts.trans h.verdicts, k.hwm.trans h.hwm, k.step.trans h.step, k.boundary.trans h.boundary,
    k.pinReset.trans h.pinReset, fun hr => h.run (k.run hr), fun he => k.empty (h.empty he)⟩

section Operations
variable {s : State}

theorem setLi (l : Li) : Steady s (s.setLi l) := ⟨rfl, rfl, rfl, rfl, rfl, rfl, id, id⟩

theorem setCs (x : Side) (c : Cs) : Steady s (s.setCs x c) := ⟨rfl, rfl, rfl, rfl, rfl, rfl, id, id⟩

theorem modifySc (x : Side) (g : Sc → Sc) : Steady s (s.modifySc x g) := ⟨rfl, rfl, rfl, rfl, rfl, rfl, id, id⟩

theorem setPs (p : Ps) : Steady s (s.setPs p) := ⟨rfl, rfl, rfl, rfl, rfl, rfl, id, id⟩

theorem advanceTo (n : Nat) : Steady s (s.advanceTo n) := ⟨rfl, rfl, rfl, rfl, rfl, rfl, id, id⟩

theorem setRc {r : Rc} (h : r.run = .running → s.rc.run = .running) : Steady s (s.setRc r) :=
  ⟨rfl, rfl, rfl, rfl, rfl, rfl, h, id⟩

theorem setIt {t : It} (hv : t.verdicts = s.it.verdicts) (he : s.it.empty = true → t.empty = true) :
    Steady s (s.setIt t) := ⟨rfl, hv, rfl, rfl, rfl, rfl, id, he⟩

theorem setTrack {k : Track} (h : TableOnly s.track k) (he : s.it.empty = true → k.it.empty = true) :
    Steady s (s.setTrack k) := ⟨rfl, h.verdicts, rfl, rfl, rfl, rfl, id, he⟩

/-- A change of the Distance Unit that leaves the step and the high-water mark. -/
theorem commitDu (latch : MotionCauses) {d : Du} (hstep : d.step = s.du.step) (hhwm : d.hwm = s.du.hwm) :
    Steady s (commitDu latch d s) := by
  obtain ⟨l, heq, -⟩ := commitDu_frame latch d s
  rw [heq]
  exact ⟨rfl, rfl, hhwm, hstep, rfl, rfl, id, id⟩

theorem swapPlans : Steady s (swapPlans s) := by
  obtain ⟨b, c, l, heq, -⟩ := swapPlans_frame s
  rw [heq]
  exact ⟨rfl, rfl, rfl, rfl, rfl, rfl, id, id⟩

theorem recordTakesEffect (x : Side) (ch : Channel) : Steady s (recordTakesEffect x s ch) := by
  unfold Machine.recordTakesEffect
  split
  · exact refl s
  · exact ⟨rfl, rfl, rfl, rfl, rfl, rfl, id, id⟩

theorem recordsTakeEffect : Steady s (recordsTakeEffect s) := by
  obtain ⟨v, c, heq, -⟩ := recordsTakeEffect_frame s
  rw [heq]
  exact ⟨rfl, rfl, rfl, rfl, rfl, rfl, id, id⟩

theorem drainGaps (x : Side) : Steady s (drainGaps x s) := by
  obtain ⟨g, l, heq, -⟩ := drainGaps_frame x s
  rw [heq]
  exact ⟨rfl, rfl, rfl, rfl, rfl, rfl, id, id⟩

theorem releaseClusters : Steady s (releaseClusters s) := by
  unfold Machine.releaseClusters
  refine setTrack (Track.releaseLoop_tableOnly _ 64 _) fun he => ?_
  rw [Track.releaseAll_empty (k := s.track) he]
  exact he

theorem releaseFront : Steady s (s.setTrack (s.track.releaseFront s.du.hwm)) := by
  refine setTrack (Track.releaseFront_tableOnly _ _) fun he => ?_
  rw [Track.releaseFront_empty (k := s.track) he]
  exact he

end Operations
end Steady

/-! ## Closures of an empty table -/

/-- A sweep whose every step leaves the tracker leaves it. -/
theorem Track.foldl_fixed {f : Track → Fin 64 → Track} {k : Track} (h : ∀ i, f k i = k) :
    ∀ l : List (Fin 64), l.foldl f k = k
  | [] => rfl
  | i :: l => by rw [List.foldl_cons, h i, Track.foldl_fixed h l]

theorem Track.closeAll_empty {hwm : Int} {k : Track} (m : IndicationFlags → IndicationFlags) (h : k.it.empty = true) :
    k.closeAll hwm m = k := by
  refine Track.foldl_fixed (fun i => ?_) allEntries
  unfold Track.closeWith
  rw [It.empty_iff.1 h i]

theorem It.mapTable_empty {t : It} {f : Fin 64 → TableEntry → TableEntry} (hf : ∀ i, f i .free = .free)
    (h : t.empty = true) : (t.mapTable f).empty = true :=
  It.empty_iff.2 fun i => by rw [It.mapTable_get, It.empty_iff.1 h i, hf]

theorem Steady.closeAll {s : State} (m : IndicationFlags → IndicationFlags) :
    Steady s (s.setTrack (s.track.closeAll s.du.hwm m)) := by
  refine setTrack (Track.closeAll_tableOnly _ m _) fun he => ?_
  rw [Track.closeAll_empty (k := s.track) m he]
  exact he

theorem It.sealForced_empty {t : It} (h : t.empty = true) : t.sealForced.empty = true := by
  unfold It.sealForced
  exact It.mapTable_empty (fun _ => rfl) h

theorem Steady.sealForced {s : State} : Steady s (s.setIt s.it.sealForced) :=
  setIt (It.sealForced_same _).verdicts It.sealForced_empty

/-! ## The drain -/

/-- Stops, drains and events leave the state of step evaluation. -/
theorem steady_drainKept (s : State) : DrainKept (Steady s) where
  runstate _ _ h := h.trans (.setLi _)
  swap h := h.trans .swapPlans
  record x ch h := h.trans (.recordTakesEffect x ch)
  gaps x h := h.trans (.drainGaps x)
  free _ h := h.trans ⟨rfl, rfl, rfl, rfl, rfl, rfl, id, id⟩
  run _ _ _ hr h := h.trans (.setRc hr)
  release h := h.trans .releaseClusters
  closing m h := h.trans (.closeAll m)
  sealing h := h.trans .sealForced
  side _ _ _ h := h.trans (.setLi _)
  coupling _ _ _ h := h.trans (.setLi _)

namespace Steady
variable {s : State}

theorem drainTest : Steady s (drainTest s) := (steady_drainKept s).drainTest (refl s)
theorem drainEndTest : Steady s (drainEndTest s) := (steady_drainKept s).drainEndTest (refl s)
theorem beginStop (c : StopCause) : Steady s (beginStop c s) := (steady_drainKept s).beginStop c (refl s)
theorem planSwapAtBoundary : Steady s (planSwapAtBoundary s) := (steady_drainKept s).planSwapAtBoundary (refl s)
theorem raiseSide (x : Side) (e : SideEvent) : Steady s (raiseSide x e s) := (steady_drainKept s).raiseSide x e (refl s)

theorem couplingResult (x : Side) (ch : Channel) (good : Bool) : Steady s (couplingResult x ch good s) :=
  (steady_drainKept s).couplingResult x ch good fun _ => .setCs x _

theorem loadFault (x : Side) (ch : Channel) (l : FaultLatch) : Steady s (loadFault x ch l s) := by
  unfold Machine.loadFault
  split
  · exact (modifySc x _).trans (raiseSide x _)
  · exact refl s

/-- R67 to R69: the outcome of a shot. -/
theorem shotOutcome (x : Side) (load : LoadStatus) (trace : List Nat) (fl : InFlight) (p : PlannedShot) :
    Steady s (shotOutcome x load trace fl p s).2 := by
  cases load with
  | openLoad => exact loadFault x _ _
  | shorted => exact loadFault x _ _
  | good =>
    simp only [Machine.shotOutcome]
    cases couplingGood (evaluateGates (deliveredTrace trace fl.params.listeningEnd) p.shot.gates) with
    | none => dsimp only; split <;> exact refl s
    | some g => dsimp only; split <;> exact couplingResult x _ g

end Steady
end Sys2Proof.Machine

/-!
What the work of one Shot Engine leaves of step evaluation (R61 to R64, R70 to R74, R120): the side's own law, and the other
side as it was.
-/
namespace Sys2Proof.Machine

/-! ## What a FIRING engine holds -/

namespace Firing.law
variable {aw : List Int} {hwm : Int} {f : Firing} (h : f.law aw hwm)
include h

/-- As many steps await evaluation as the engine has current and owed. -/
theorem awaiting_length : aw.length = f.owed + 1 := by
  obtain ⟨haw, -⟩ := h
  rw [haw, List.length_map, List.length_range]

/-- No step that awaits evaluation lies above the high-water mark. -/
theorem awaiting_le {z : Int} (hz : z ∈ aw) : z ≤ hwm := by
  obtain ⟨haw, hmark, -⟩ := h
  rw [haw] at hz
  obtain ⟨k, hk, rfl⟩ := List.mem_map.1 hz
  have := List.mem_range.1 hk
  omega

/-- R62: a step more is owed. -/
theorem owe {z : Int} (hz : z = hwm + 1) : ({ f with owed := f.owed + 1 } : Firing).law (aw ++ [z]) z := by
  obtain ⟨haw, hmark, hrest⟩ := h
  have hlast : z = f.step + ((f.owed + 1 : Nat) : Int) := by omega
  refine ⟨?_, hlast.symm, hrest⟩
  rw [haw, List.range_succ (n := f.owed + 1), List.map_append, List.map_singleton, ← hlast]

/-- A shot is passed over. -/
theorem pass (hflight : f.inFlight = none) : ({ f with position := f.position + 1 } : Firing).law aw hwm := by
  obtain ⟨haw, hmark, hnodup, hrecord, -⟩ := h
  refine ⟨haw, hmark, hnodup, hrecord.trans ?_, fun fl hfl => nomatch hflight.symm.trans hfl⟩
  exact (List.take_prefix_take_left (Nat.le_succ f.position)).sublist

/-- R70, R71: the entry of the shot at the position. -/
theorem addEntry {e : OutcomeEntry} (he : f.due[f.position]? = some e.shot) : (f.addEntry e).law aw hwm := by
  obtain ⟨haw, hmark, hnodup, hrecord, -⟩ := h
  refine ⟨haw, hmark, hnodup, ?_, fun fl hfl => nomatch hfl⟩
  show List.Sublist ((f.record ++ [e]).map (fun e => e.shot)) (f.due.take (f.position + 1))
  rw [List.map_append, List.take_add_one, he]
  exact hrecord.append (List.Sublist.refl _)

/-- R65: the shot at the position is in flight. -/
theorem start {fl : InFlight} (hfl : f.due[f.position]? = some fl.shot) :
    ({ f with inFlight := some fl } : Firing).law aw hwm := by
  obtain ⟨haw, hmark, hnodup, hrecord, -⟩ := h
  refine ⟨haw, hmark, hnodup, hrecord, fun g hg => ?_⟩
  rw [← Option.some.inj hg]
  exact hfl

end Firing.law

/-- R61: a list begins at its step. -/
theorem Firing.law_begin (z : Int) (g : BitVec 16) {due : List Nat} (h : due.Nodup) :
    (Firing.mk z g due 0 none [] 0).law [z] z := by
  refine ⟨?_, Int.add_zero z, h, List.Sublist.refl _, nofun⟩
  simp

/-! ## One side -/

/-- The law of step evaluation at one side. -/
def State.sideEval (s : State) (x : Side) : Prop :=
  (s.se.get x).finished = [] ∧ ((s.se.get x).firing = none → s.awaiting x = []) ∧
  ∀ f, (s.se.get x).firing = some f → f.law (s.awaiting x) s.du.hwm

theorem State.sideEval_idle {s : State} {x : Side} (hse : s.se.get x = ⟨none, []⟩) (hv : s.it.verdicts.get x = []) :
    s.sideEval x := by
  unfold State.sideEval State.awaiting
  rw [hse, hv]
  exact ⟨rfl, fun _ => rfl, nofun⟩

theorem State.sideEval_firing {s : State} {x : Side} {f : Firing} (hse : s.se.get x = ⟨some f, []⟩)
    (hf : f.law (s.awaiting x) s.du.hwm) : s.sideEval x := by
  unfold State.sideEval
  rw [hse]
  refine ⟨rfl, nofun, fun g hg => ?_⟩
  rw [← Option.some.inj hg]
  exact hf

theorem State.sideEval_congr {s t : State} {x : Side} (hse : t.se.get x = s.se.get x)
    (hv : t.it.verdicts.get x = s.it.verdicts.get x) (hhwm : t.du.hwm = s.du.hwm) (h : s.sideEval x) : t.sideEval x := by
  unfold State.sideEval State.awaiting at *
  rw [hse, hv, hhwm]
  exact h

/-- What the work at one side leaves of the rest. -/
structure Elsewhere (x : Side) (s t : State) : Prop where
  se : ∀ y, y ≠ x → t.se.get y = s.se.get y
  verdicts : ∀ y, y ≠ x → t.it.verdicts.get y = s.it.verdicts.get y
  hwm : t.du.hwm = s.du.hwm
  step : t.du.step = s.du.step
  boundary : t.boundary = s.boundary
  pinReset : t.pinReset = s.pinReset
  run : t.rc.run = .running → s.rc.run = .running

theorem Elsewhere.trans {x : Side} {s t u : State} (h : Elsewhere x s t) (k : Elsewhere x t u) : Elsewhere x s u :=
  ⟨fun y hy => (k.se y hy).trans (h.se y hy), fun y hy => (k.verdicts y hy).trans (h.verdicts y hy), k.hwm.trans h.hwm,
    k.step.trans h.step, k.boundary.trans h.boundary, k.pinReset.trans h.pinReset, fun hr => h.run (k.run hr)⟩

theorem Steady.elsewhere {s t : State} (h : Steady s t) (x : Side) : Elsewhere x s t :=
  ⟨fun _ _ => by rw [h.se], fun _ _ => by rw [h.verdicts], h.hwm, h.step, h.boundary, h.pinReset, h.run⟩

theorem Elsewhere.setSe (s : State) (x : Side) (v : Se) : Elsewhere x s (s.setSe x v) :=
  ⟨fun y hy => PerSide.get_set_of_ne s.se x y v hy, fun _ _ => rfl, rfl, rfl, rfl, rfl, id⟩

theorem modifyFiring_elsewhere (s : State) (x : Side) (g : Firing → Firing) : Elsewhere x s (s.modifyFiring x g) :=
  .setSe s x _

/-! ## Step evaluation -/

/-- R120: an evaluation drops the verdict that it reads. -/
theorem stepEvaluation_verdicts {s : State} {x : Side} {r : StepRecord} {rest : List StepRecord}
    (h : (s.se.get x).finished = r :: rest) :
    (stepEvaluation x s).it.verdicts = s.it.verdicts.set x (s.it.verdicts.get x).tail := by
  unfold stepEvaluation
  rw [h]
  dsimp only
  rw [State.setSe_it, State.setRecorder_it, State.setTrack_it]
  dsimp only
  rw [Track.evaluate_verdicts]
  rfl

theorem stepEvaluation_elsewhere (x : Side) (s : State) : Elsewhere x s (stepEvaluation x s) := by
  have hframe := stepEvaluation_internal x s
  obtain ⟨b, hdu, -⟩ := hframe.du
  refine ⟨fun y hy => stepEvaluation_se_of_ne s hy, fun y hy => ?_, by rw [hdu], by rw [hdu], hframe.boundary,
    hframe.pinReset, fun hr => by rwa [stepEvaluation_rc] at hr⟩
  cases hfin : (s.se.get x).finished with
  | nil =>
    unfold stepEvaluation
    rw [hfin]
  | cons r rest =>
    rw [stepEvaluation_verdicts hfin]
    exact PerSide.get_set_of_ne _ x y _ hy

/-- R72: as many verdicts are dropped as there are finished records. -/
theorem evaluateTimes_worked {x : Side} : ∀ {l : List StepRecord} {s : State}, (s.se.get x).finished = l →
    Elsewhere x s (evaluateTimes x l.length s) ∧
    (evaluateTimes x l.length s).it.verdicts.get x = (s.it.verdicts.get x).drop l.length
  | [], s, _ => ⟨(Steady.refl s).elsewhere x, rfl⟩
  | r :: rest, s, h => by
    have hnext : ((stepEvaluation x s).se.get x).finished = rest := by
      rw [stepEvaluation_se h]
      split
      case isTrue hnil => exact hnil.symm
      case isFalse => rfl
    obtain ⟨hrest, hdrop⟩ := evaluateTimes_worked hnext
    refine ⟨(stepEvaluation_elsewhere x s).trans hrest, hdrop.trans ?_⟩
    rw [stepEvaluation_verdicts h, PerSide.get_set_self, List.drop_tail]
    rfl

/-! ## The work on a list -/

/-- The work at one side leaves its law, no new step to evaluate, and the rest as it was. -/
structure Worked (x : Side) (s t : State) : Prop where
  elsewhere : Elsewhere x s t
  side : t.sideEval x
  fewer : ∀ z ∈ t.awaiting x, z ∈ s.awaiting x

/-- The work may begin with what does not touch the steps awaiting. -/
theorem Worked.after {x : Side} {s u t : State} (h : Elsewhere x s u) (hv : u.it.verdicts.get x = s.it.verdicts.get x)
    (k : Worked x u t) : Worked x s t := by
  refine ⟨h.trans k.elsewhere, k.side, fun z hz => ?_⟩
  have := k.fewer z hz
  unfold State.awaiting at *
  rwa [hv] at this

/-- R72: with a record for every step awaiting, the evaluation leaves the engine IDLE and no step awaiting. -/
theorem evaluateFinished_worked {x : Side} {s : State} (hne : (s.se.get x).finished ≠ [])
    (hlen : (s.it.verdicts.get x).length = (s.se.get x).finished.length) : Worked x s (evaluateFinished x s) := by
  obtain ⟨helse, hdrop⟩ := evaluateTimes_worked (x := x) (s := s) rfl
  have htest := Steady.drainTest (s := evaluateTimes x (s.se.get x).finished.length s)
  have hverdicts : (evaluateFinished x s).it.verdicts.get x = [] := by
    unfold evaluateFinished
    rw [htest.verdicts, hdrop, ← hlen, List.drop_length]
  refine ⟨helse.trans (htest.elsewhere x), State.sideEval_idle (evaluateFinished_se rfl hne) hverdicts, fun z hz => ?_⟩
  unfold State.awaiting at hz
  rw [hverdicts] at hz
  cases hz

theorem endOfList_worked {x : Side} {s : State} {f : Firing} (hf : (s.se.get x).firing = some f)
    (hlen : (s.it.verdicts.get x).length = f.owed + 1) : Worked x s (endOfList x s) := by
  rw [endOfList_some hf]
  refine Worked.after (.setSe s x _) rfl (evaluateFinished_worked ?_ ?_)
  · rw [State.setSe_se, PerSide.get_set_self]
    exact List.cons_ne_nil _ _
  · rw [State.setSe_se, PerSide.get_set_self]
    simp [owedRecords, hlen]

/-- R74. -/
theorem abortList_worked {x : Side} {s : State} {f : Firing} (hf : (s.se.get x).firing = some f)
    (hlen : (s.it.verdicts.get x).length = f.owed + 1) : Worked x s (abortList x s) := by
  unfold abortList
  rw [hf]
  dsimp only
  refine Worked.after (modifyFiring_elsewhere s x _) rfl (endOfList_worked (f := { f with
    inFlight := none
    record := f.record ++ skipEntries .sideNotReady (s.ps.active.get x) (f.due.drop f.position) }) ?_ hlen)
  rw [State.modifyFiring_some hf, State.setSe_se, PerSide.get_set_self]

/-- The engine at side `x` is working through its list and has the shots `due` before it. -/
structure State.Reaching (s : State) (x : Side) (f : Firing) (due : List Nat) : Prop where
  engine : s.se.get x = ⟨some f, []⟩
  law : f.law (s.awaiting x) s.du.hwm
  idle : f.inFlight = none
  due : due = f.due.drop f.position

theorem State.Reaching.length {s : State} {x : Side} {f : Firing} {due : List Nat} (h : s.Reaching x f due) :
    (s.it.verdicts.get x).length = f.owed + 1 := by
  rw [← h.law.awaiting_length]
  exact (List.length_map _).symm

/-- The shot that is reached stands at the position, and the rest after it. -/
theorem State.Reaching.head {s : State} {x : Side} {f : Firing} {i : Nat} {due : List Nat} (h : s.Reaching x f (i :: due)) :
    f.due[f.position]? = some i ∧ due = f.due.drop (f.position + 1) := by
  have hdue := h.due
  constructor
  · rw [← List.head?_drop, ← hdue]
    rfl
  · rw [← List.tail_drop, ← hdue]
    rfl

/-- R65, R71: each due shot is skipped or starts, and after the last the list ends. -/
theorem reachShots_worked {x : Side} : ∀ {due : List Nat} {s : State} {f : Firing}, s.Reaching x f due →
    Worked x s (reachShots x due s)
  | [], s, f, h => endOfList_worked (congrArg Se.firing h.engine) h.length
  | i :: due, s, f, h => by
    obtain ⟨hhead, hrest⟩ := h.head
    have hset : ∀ g : Firing → Firing, (s.modifyFiring x g).se.get x = ⟨some (g f), []⟩ := fun g => by
      rw [State.modifyFiring_some (congrArg Se.firing h.engine), State.setSe_se, PerSide.get_set_self, h.engine]
    have hnext : ∀ g : Firing → Firing, (g f).law (s.awaiting x) s.du.hwm → (g f).inFlight = none →
        due = (g f).due.drop (g f).position → Worked x s (reachShots x due (s.modifyFiring x g)) :=
      fun g hlaw hidle hdue => Worked.after (modifyFiring_elsewhere s x g) rfl (reachShots_worked ⟨hset g, hlaw, hidle, hdue⟩)
    have hskip : ∀ (cause : GapCause) (p : PlannedShot),
        Worked x s (reachShots x due (s.modifyFiring x (Firing.addEntry (skipEntry cause i p)))) := fun cause p =>
      hnext _ (h.law.addEntry hhead) rfl hrest
    unfold reachShots
    split
    · exact hnext _ (h.law.pass h.idle) h.idle hrest
    · split
      · exact hskip _ _
      · split
        · exact ⟨modifyFiring_elsewhere s x _, State.sideEval_firing (hset _) (h.law.start hhead), fun _ hz => hz⟩
        · exact hskip _ _

end Sys2Proof.Machine

/-!
No side evaluates a step twice (R8, R9, R61, R120): how the steps that await evaluation and the high-water mark go on through
a request, an event, and a fire boundary.
-/
namespace Sys2Proof.Machine

/-- After `s` stands `u`: its law of step evaluation, and of the steps that await evaluation those of `s` and later ones. -/
structure Follows (s u : State) : Prop where
  live : u.pinReset = false
  law : evaluationLaw u
  awaits : ∀ (x : Side) (z : Int), z ∈ u.awaiting x → z ∈ s.awaiting x ∨ s.du.hwm < z

/-- The high-water mark has not fallen. -/
structure Continues (s u : State) : Prop extends Follows s u where
  mark : s.du.hwm ≤ u.du.hwm

theorem evaluationLaw_iff {s : State} (hlive : s.pinReset = false) : evaluationLaw s ↔
    s.boundary = none ∧ (∀ x, s.sideEval x) ∧
    (s.rc.run = .running → (enginesIdle s = false ∨ s.it.empty = false) → s.du.step ≤ s.du.hwm) :=
  ⟨fun h => h hlive, fun h _ => h⟩

theorem Follows.parts {s u : State} (h : Follows s u) : u.boundary = none ∧ (∀ x, u.sideEval x) ∧
    (u.rc.run = .running → (enginesIdle u = false ∨ u.it.empty = false) → u.du.step ≤ u.du.hwm) :=
  (evaluationLaw_iff h.live).1 h.law

theorem Follows.refl {s : State} (hlive : s.pinReset = false) (h : evaluationLaw s) : Follows s s := ⟨hlive, h, fun _ _ => .inl⟩

theorem Continues.refl {s : State} (hlive : s.pinReset = false) (h : evaluationLaw s) : Continues s s :=
  ⟨Follows.refl hlive h, Int.le_refl _⟩

/-- R8: of an engine that is not IDLE the steps that await evaluation reach up to the high-water mark. -/
theorem State.sideEval.le {s : State} {x : Side} {z : Int} (h : s.sideEval x) (hz : z ∈ s.awaiting x) : z ≤ s.du.hwm := by
  obtain ⟨-, hnone, hsome⟩ := h
  cases hf : (s.se.get x).firing with
  | none => rw [hnone hf] at hz; cases hz
  | some f => exact (hsome f hf).awaiting_le hz

theorem enginesIdle_of_firing {s : State} {x : Side} {f : Firing} (h : (s.se.get x).firing = some f) :
    enginesIdle s = false := by
  refine Bool.eq_false_iff.2 fun hidle => ?_
  exact nomatch h.symm.trans ((enginesIdle_iff s).1 hidle x).1

/-! ## Work outside the engines, and work at one side -/

theorem Follows.steady {s u v : State} (h : Follows s u) (k : Steady u v) : Follows s v := by
  obtain ⟨hboundary, hside, hstep⟩ := h.parts
  have hlive : v.pinReset = false := k.pinReset.trans h.live
  refine ⟨hlive, (evaluationLaw_iff hlive).2 ⟨k.boundary.trans hboundary, fun x => ?_, fun hrun hbusy => ?_⟩, fun x z hz => ?_⟩
  · exact State.sideEval_congr (by rw [k.se]) (by rw [k.verdicts]) k.hwm (hside x)
  · rw [k.step, k.hwm]
    refine hstep (k.run hrun) (hbusy.imp (fun hidle => ?_) fun hempty => ?_)
    · unfold enginesIdle at *
      rwa [k.se] at hidle
    · exact Bool.eq_false_iff.2 fun he => Bool.eq_false_iff.1 hempty (k.empty he)
  · refine h.awaits x z ?_
    unfold State.awaiting at *
    rwa [k.verdicts] at hz

theorem Continues.steady {s u v : State} (h : Continues s u) (k : Steady u v) : Continues s v :=
  ⟨h.toFollows.steady k, k.hwm.symm ▸ h.mark⟩

/-- The work of an engine that is FIRING. -/
theorem Continues.worked {s u v : State} (h : Continues s u) {x : Side} {f : Firing} (hf : (u.se.get x).firing = some f)
    (k : Worked x u v) : Continues s v := by
  obtain ⟨hboundary, hside, hstep⟩ := h.parts
  obtain ⟨helse, hworked, hfewer⟩ := k
  have hlive : v.pinReset = false := helse.pinReset.trans h.live
  refine ⟨⟨hlive, (evaluationLaw_iff hlive).2 ⟨helse.boundary.trans hboundary, fun y => ?_, fun hrun _ => ?_⟩,
    fun y z hz => ?_⟩, helse.hwm.symm ▸ h.mark⟩
  · by_cases hy : y = x
    · exact hy ▸ hworked
    · exact State.sideEval_congr (helse.se y hy) (helse.verdicts y hy) helse.hwm (hside y)
  · rw [helse.step, helse.hwm]
    exact hstep (helse.run hrun) (.inl (enginesIdle_of_firing hf))
  · by_cases hy : y = x
    · subst hy
      exact h.awaits y z (hfewer z hz)
    · refine h.awaits y z ?_
      unfold State.awaiting at *
      rwa [helse.verdicts y hy] at hz

theorem Continues.length {s u : State} (h : Continues s u) {x : Side} {f : Firing} (hf : (u.se.get x).firing = some f) :
    (u.it.verdicts.get x).length = f.owed + 1 := by
  obtain ⟨-, hside, -⟩ := h.parts
  obtain ⟨-, -, hsome⟩ := hside x
  rw [← (hsome f hf).awaiting_length]
  exact (List.length_map _).symm

theorem Continues.abortList {s u : State} (h : Continues s u) (x : Side) : Continues s (abortList x u) := by
  cases hf : (u.se.get x).firing with
  | none =>
    unfold Machine.abortList
    rw [hf]
    exact h
  | some f => exact h.worked hf (abortList_worked hf (h.length hf))

theorem continues_sideKept (s : State) : SideKept (Continues s) where
  modify x g _ h := h.steady (.modifySc x g)
  raise x e h := h.steady (.raiseSide x e)
  abort x h := h.abortList x
  waits n h := h.steady (.advanceTo n)

/-- R66 to R71: a completion is the work of a FIRING engine. -/
theorem Continues.completeShot {s u : State} (h : Continues s u) (x : Side) (load : LoadStatus) (trace : List Nat) :
    Continues s (completeShot x load trace u) := by
  unfold Machine.completeShot
  split
  case h_1 => exact h
  case h_2 f hf =>
    split
    case h_1 => exact h
    case h_2 fl hfl =>
      dsimp only
      have hnow := h.steady (Steady.advanceTo (fl.start + fl.duration * Config.tuPerUs))
      split
      case h_1 => exact hnow
      case h_2 p hp =>
        have hresult := Steady.shotOutcome (s := u.advanceTo (fl.start + fl.duration * Config.tuPerUs)) x load trace fl p
        generalize shotOutcome x load trace fl p (u.advanceTo (fl.start + fl.duration * Config.tuPerUs)) = r at hresult ⊢
        have hv := hnow.steady hresult
        have hse : (r.2.se.get x).firing = some f := by rw [hresult.se]; exact hf
        obtain ⟨-, hside, -⟩ := hv.parts
        obtain ⟨hfinished, -, hsome⟩ := hside x
        obtain ⟨-, -, -, -, hflight⟩ := id (hsome f hse)
        refine hv.worked hse (Worked.after (modifyFiring_elsewhere r.2 x _) rfl (reachShots_worked
          ⟨?_, (hsome f hse).addEntry (e := ⟨fl.shot, p.shot.tx, p.shot.rx, r.1⟩) (hflight fl hfl), rfl, rfl⟩))
        rw [State.modifyFiring_some hse, State.setSe_se, PerSide.get_set_self]
        exact congrArg (Se.mk _) hfinished

/-! ## Counts -/

/-- A change of the Distance Unit that leaves the high-water mark, and in RUNNING does not pass it. -/
theorem Continues.commitDu {s u : State} (h : Continues s u) (latch : MotionCauses) {d : Du} (hhwm : d.hwm = u.du.hwm)
    (hstep : u.rc.run = .running → d.step ≤ u.du.step ∨ d.step ≤ u.du.hwm) : Continues s (commitDu latch d u) := by
  obtain ⟨l, heq, -⟩ := commitDu_frame latch d u
  obtain ⟨hboundary, hside, hmark⟩ := h.parts
  rw [heq]
  refine ⟨⟨h.live, fun _ => ⟨hboundary, fun x => ?_, fun hrun hbusy => ?_⟩, h.awaits⟩, ?_⟩
  · exact State.sideEval_congr (s := u) rfl rfl hhwm (hside x)
  · show d.step ≤ d.hwm
    rw [hhwm]
    rcases hstep hrun with hle | hle
    · exact Int.le_trans hle (hmark hrun hbusy)
    · exact hle
  · exact hhwm.symm ▸ h.mark

/-- What an engine finds at the fire boundary into `z`, when the step has been added to those that await evaluation. -/
structure State.Entering (s : State) (x : Side) (z : Int) : Prop where
  finished : (s.se.get x).finished = []
  idle : (s.se.get x).firing = none → s.awaiting x = [z]
  firing : ∀ f, (s.se.get x).firing = some f → ∃ aw, f.law aw (z - 1) ∧ s.awaiting x = aw ++ [z]
  mark : s.du.hwm = z

/-- R61: an IDLE engine of an ARMED side begins its list of due shots. -/
theorem State.Entering.begins {s : State} {x : Side} {z : Int} (h : s.Entering x z) (hf : (s.se.get x).firing = none)
    (hdue : ¬((s.ps.active.get x).dueIndices z = [] ∨ (s.sc.get x).state ≠ .armed)) :
    let f : Firing := ⟨z, s.ps.generation, (s.ps.active.get x).dueIndices z, 0, none, [], 0⟩
    engineBoundary x z s = reachShots x f.due (s.setSe x ⟨some f, []⟩) ∧ (s.setSe x ⟨some f, []⟩).Reaching x f f.due := by
  intro f
  obtain ⟨hne, harmed⟩ := not_or.1 hdue
  refine ⟨engineBoundary_begins hf (Decidable.not_not.1 harmed) hne, ?_, ?_, rfl, rfl⟩
  · rw [State.setSe_se, PerSide.get_set_self]
  · show Firing.law (s.awaiting x) s.du.hwm _
    rw [h.idle hf, h.mark]
    exact Firing.law_begin z _ ((dueIndices_ascending _ _).imp Nat.ne_of_lt)

/-- R60 to R64: the engine takes the step as owed, skips it, or begins its list. -/
theorem engineBoundary_worked {s : State} {x : Side} {z : Int} (h : s.Entering x z) : Worked x s (engineBoundary x z s) := by
  cases hf : (s.se.get x).firing with
  | some f =>
    obtain ⟨aw, hlaw, haw⟩ := h.firing f hf
    rw [engineBoundary_owes hf]
    refine ⟨.setSe s x _, State.sideEval_firing (f := { f with owed := f.owed + 1 }) ?_ ?_, fun _ hz => hz⟩
    · rw [State.setSe_se, PerSide.get_set_self]
      exact congrArg (Se.mk _) h.finished
    · show Firing.law (s.awaiting x) s.du.hwm _
      rw [haw, h.mark]
      exact hlaw.owe (by omega)
  | none =>
    have haw := h.idle hf
    have hlen : (s.it.verdicts.get x).length = 1 := by
      rw [← List.length_map (f := fun v : Verdict => v.step)]
      exact congrArg List.length haw
    by_cases hskip : (s.ps.active.get x).dueIndices z = [] ∨ (s.sc.get x).state ≠ .armed
    · rw [engineBoundary_skips hf hskip]
      refine Worked.after (.setSe s x _) rfl (evaluateFinished_worked ?_ ?_)
      · rw [State.setSe_se, PerSide.get_set_self]
        exact List.cons_ne_nil _ _
      · rw [State.setSe_se, PerSide.get_set_self]
        exact hlen
    · obtain ⟨hbegin, hreaching⟩ := h.begins hf hskip
      rw [hbegin]
      exact Worked.after (.setSe s x _) rfl (reachShots_worked hreaching)

theorem State.Entering.elsewhere {s t : State} {x y : Side} {z : Int} (h : s.Entering y z) (k : Elsewhere x s t) (hy : y ≠ x) :
    t.Entering y z := by
  obtain ⟨hfinished, hidle, hfiring, hmark⟩ := h
  have hawaiting : t.awaiting y = s.awaiting y := by unfold State.awaiting; rw [k.verdicts y hy]
  refine ⟨?_, ?_, ?_, k.hwm.trans hmark⟩
  · rw [k.se y hy]; exact hfinished
  · rw [k.se y hy, hawaiting]; exact hidle
  · rw [k.se y hy, hawaiting]; exact hfiring

/-- The step of the boundary joins the steps that await evaluation, at both sides. -/
theorem trackerBoundary_awaiting (s : State) (z : Int) (x : Side) :
    (trackerBoundary z s).awaiting x = s.awaiting x ++ [z] := by
  have hverdicts : (trackerBoundary z s).it.verdicts = (s.it.appendVerdicts z).verdicts :=
    Steady.releaseClusters.verdicts.trans (It.sealDue_same _ _).verdicts
  unfold State.awaiting
  rw [hverdicts]
  cases x <;> exact List.map_append


/-- R8: the boundary into the step above the high-water mark is the next step of an engine that is FIRING. -/
theorem entering_of_law {s v : State} {x : Side} {z : Int} (hside : s.sideEval x) (hnext : z = s.du.step + 1)
    (habove : s.du.hwm < z) (hstep : enginesIdle s = false → s.du.step ≤ s.du.hwm) (hse : v.se = s.se)
    (haw : v.awaiting x = s.awaiting x ++ [z]) (hmark : v.du.hwm = z) : v.Entering x z := by
  obtain ⟨hfinished, hnone, hsome⟩ := hside
  refine ⟨?_, fun hf => ?_, fun f hf => ⟨s.awaiting x, ?_, haw⟩, hmark⟩
  · rw [hse]; exact hfinished
  · rw [hse] at hf
    rw [haw, hnone hf]
    rfl
  · rw [hse] at hf
    have hlast := hstep (enginesIdle_of_firing hf)
    rw [show z - 1 = s.du.hwm by omega]
    exact hsome f hf

theorem trackerBoundary_leaves (s : State) (z : Int) : (trackerBoundary z s).se = s.se ∧
    (trackerBoundary z s).du.hwm = s.du.hwm ∧ (trackerBoundary z s).du.step = s.du.step ∧
    (trackerBoundary z s).pinReset = s.pinReset := by
  unfold trackerBoundary
  generalize (s.it.appendVerdicts z).sealDue s.du.hwm = k
  have h := Steady.releaseClusters (s := s.setIt k)
  exact ⟨h.se, h.hwm, h.step, h.pinReset⟩

/-- The two engines at a fire boundary, one after the other. -/
theorem bothEngines_worked {s : State} {z : Int} (first : Side) (h : ∀ x, s.Entering x z) :
    let t := engineBoundary (otherSide first) z (engineBoundary first z s)
    (∀ x, t.sideEval x ∧ ∀ y ∈ t.awaiting x, y ∈ s.awaiting x) ∧ t.du.hwm = s.du.hwm ∧ t.du.step = s.du.step ∧
      t.pinReset = s.pinReset := by
  intro t
  have hother : otherSide first ≠ first := by cases first <;> decide
  have hone := engineBoundary_worked (h first)
  have htwo : Worked (otherSide first) (engineBoundary first z s) t :=
    engineBoundary_worked ((h (otherSide first)).elsewhere hone.elsewhere hother)
  clear_value t
  generalize engineBoundary first z s = m at hone htwo
  refine ⟨fun x => ?_, htwo.elsewhere.hwm.trans hone.elsewhere.hwm, htwo.elsewhere.step.trans hone.elsewhere.step,
    htwo.elsewhere.pinReset.trans hone.elsewhere.pinReset⟩
  by_cases hx : x = otherSide first
  · subst hx
    refine ⟨htwo.side, fun y hy => ?_⟩
    have hmid := htwo.fewer y hy
    unfold State.awaiting at *
    rwa [hone.elsewhere.verdicts _ hother] at hmid
  · have hfirst : x = first := by
      cases first <;> cases x
      · rfl
      · exact absurd rfl hx
      · exact absurd rfl hx
      · rfl
    subst hfirst
    refine ⟨State.sideEval_congr (htwo.elsewhere.se x hx) (htwo.elsewhere.verdicts x hx) htwo.elsewhere.hwm hone.side,
      fun y hy => hone.fewer y ?_⟩
    unfold State.awaiting at *
    rwa [htwo.elsewhere.verdicts x hx] at hy

/-- R8, R120: the work of a fire boundary, of which `u` is the state with the Distance Unit's own work done. -/
theorem fireBoundary_continues {s u : State} (first : Side) {z : Int} (hlive : s.pinReset = false) (h : evaluationLaw s)
    (hrun : s.rc.run = .running) (hnext : z = s.du.step + 1) (habove : s.du.hwm < z) (hse : u.se = s.se)
    (hv : u.it.verdicts = s.it.verdicts) (hhwm : u.du.hwm = z) (hstep : u.du.step = z) (hpin : u.pinReset = s.pinReset) :
    Continues s (fireBoundary first z u) := by
  obtain ⟨-, hside, hbusy⟩ := (evaluationLaw_iff hlive).1 h
  unfold fireBoundary
  dsimp only
  have hswap := (Steady.planSwapAtBoundary (s := u.setBoundary (some z))).trans Steady.recordsTakeEffect
  generalize recordsTakeEffect (planSwapAtBoundary (u.setBoundary (some z))) = w at hswap ⊢
  have haw : ∀ x, (trackerBoundary z w).awaiting x = s.awaiting x ++ [z] := fun x => by
    rw [trackerBoundary_awaiting]
    unfold State.awaiting
    rw [hswap.verdicts, State.setBoundary_it, hv]
  obtain ⟨vse, vhwm, vstep, vpin⟩ := trackerBoundary_leaves w z
  generalize trackerBoundary z w = v at haw vse vhwm vstep vpin ⊢
  rw [hswap.se] at vse
  rw [hswap.hwm] at vhwm
  rw [hswap.step] at vstep
  rw [hswap.pinReset] at vpin
  obtain ⟨tside, thwm, tstep, tpin⟩ := bothEngines_worked (s := v) (z := z) first fun x =>
    entering_of_law (hside x) hnext habove (fun hidle => hbusy hrun (.inl hidle)) (vse.trans hse) (haw x) (vhwm.trans hhwm)
  generalize engineBoundary (otherSide first) z (engineBoundary first z v) = t at tside thwm tstep tpin ⊢
  have hmark : t.du.hwm = z := (thwm.trans vhwm).trans hhwm
  refine ⟨⟨((tpin.trans vpin).trans hpin).trans hlive, fun _ => ⟨rfl, fun x => (tside x).1, fun _ _ => ?_⟩, fun x y hy => ?_⟩,
    ?_⟩
  · show t.du.step ≤ t.du.hwm
    exact Int.le_of_eq (by rw [hmark, (tstep.trans vstep).trans hstep])
  · have hmem := (tside x).2 y hy
    rw [haw, List.mem_append, List.mem_singleton] at hmem
    exact hmem.imp_right fun heq => by rw [heq]; exact habove
  · show s.du.hwm ≤ t.du.hwm
    rw [hmark]
    exact Int.le_of_lt habove

end Sys2Proof.Machine

/-!
Every step keeps the Distance Unit's ranges and the law of step evaluation (R3 to R13, R120).
-/
namespace Sys2Proof.Machine

/-! ## Requests -/

theorem enginesIdle_congr {s t : State} (h : t.se = s.se) : enginesIdle t = enginesIdle s := by
  unfold enginesIdle
  rw [h]

theorem startRun_frame (s : State) : ∃ (c : PerSide Cs) (l : Li) (r : Rc),
    startRun s = { s with cs := c, li := l, rc := r } := by
  unfold startRun
  generalize Cs.startRun s.ps.active.a = ca, Cs.startRun s.ps.active.b = cb
  exact ⟨_, _, _, rfl⟩

/-- R175: the run begins with the engines IDLE and the table empty. -/
theorem Continues.startRun {s u : State} (h : Continues s u) (hrun : runLaw u) (hidle : u.rc.run = .idle) :
    Continues s (startRun u) := by
  obtain ⟨hboundary, hside, -⟩ := h.parts
  obtain ⟨hengines, hempty, -⟩ := hrun.1 hidle
  obtain ⟨c, l, r, heq⟩ := startRun_frame u
  have hse : (Machine.startRun u).se = u.se := by rw [heq]
  have hit : (Machine.startRun u).it = u.it := by rw [heq]
  have hdu : (Machine.startRun u).du = u.du := by rw [heq]
  have hb : (Machine.startRun u).boundary = u.boundary := by rw [heq]
  have hpin : (Machine.startRun u).pinReset = u.pinReset := by rw [heq]
  clear heq
  generalize Machine.startRun u = t at hse hit hdu hb hpin ⊢
  refine ⟨⟨hpin.trans h.live, fun _ => ⟨hb.trans hboundary, fun x => ?_, fun _ hbusy => ?_⟩, fun x z hz => ?_⟩, ?_⟩
  · exact State.sideEval_congr (by rw [hse]) (by rw [hit]) (by rw [hdu]) (hside x)
  · rw [enginesIdle_congr hse, hit, hengines, hempty] at hbusy
    rcases hbusy with hbusy | hbusy <;> cases hbusy
  · refine h.awaits x z ?_
    unfold State.awaiting at *
    rwa [hit] at hz
  · rw [hdu]; exact h.mark

theorem Continues.setChannel {s u : State} (h : Continues s u) (x : Side) (ch : Channel) (r : ChannelRecord) :
    Continues s (setChannel x ch r u) := by
  have hset := h.steady (.modifySc x (fun sc => { sc with pendingRecords := sc.pendingRecords.set ch (some r) }))
  unfold Machine.setChannel
  dsimp only
  split
  · exact hset.steady (.recordTakesEffect x ch)
  · exact hset

/-- A request other than PRESET_POSITION. -/
theorem continues_of_effect {c : Instr} {s u t : State} (h : Effect c u t) (hc : c ≠ .presetPosition) (hrun : runLaw u)
    (hs : Continues s u) : Continues s t := by
  cases h with
  | presetPosition => exact absurd rfl hc
  | unchanged => exact hs
  | queryStatus => exact hs.steady (.setLi _)
  | setOdometry => exact hs.steady (.commitDu _ rfl rfl)
  | setTracking => exact hs.steady (.setIt rfl id)
  | setSide => exact (continues_sideKept s).setSide _ _ _ _ hs
  | @armSide _ x => exact (continues_sideKept s).supplyFaultCheck _ ((continues_sideKept s).enterArming x hs)
  | disarmSide => exact (continues_sideKept s).disarmSide _ hs
  | clearSideFault => exact (continues_sideKept s).clearSideFault _ hs
  | clearChannelFault => exact hs.steady (.modifySc _ _)
  | setChannel => exact hs.setChannel _ _ _
  | @setProfile _ x n v =>
    exact (hs.steady (.modifySc x (fun sc => { sc with profiles := sc.profiles.set n v }))).steady (.setPs _)
  | writeShot => exact hs.steady (.setPs _)
  | clearStaged => exact hs.steady (.setPs _)
  | swapNow => exact hs.steady .swapPlans
  | swapLater => exact hs.steady (.setPs _)
  | setZone => exact hs.steady (.setIt rfl id)
  | setOffset => exact hs.steady (.setIt rfl id)
  | startRun idle => exact hs.startRun hrun idle
  | stopRun => exact hs.steady (.beginStop _)
  | reset => exact hs.steady (.setRc id)

/-- R16: with the engines IDLE no step awaits evaluation, whatever the new mark. -/
theorem follows_of_preset {s t : State} (h : Effect .presetPosition s t) (hrun : runLaw s) (hs : Follows s s) :
    Follows s t := by
  obtain ⟨hboundary, hside, -⟩ := hs.parts
  cases h with
  | unchanged => exact hs
  | @presetPosition _ p idle =>
    obtain ⟨l, heq, -⟩ := commitDu_frame noLatch (s.du.preset (s32 p 0)) s
    rw [heq]
    have hnone : ∀ x, s.awaiting x = [] := fun x => (hside x).2.1 (hrun.engine idle x).1
    refine ⟨hs.live, fun _ => ⟨hboundary, fun x => ⟨(hside x).1, (hside x).2.1, fun f hf => ?_⟩, fun hr => ?_⟩, hs.awaits⟩
    · exact nomatch (show (s.se.get x).firing = some f from hf).symm.trans (hrun.engine idle x).1
    · exact nomatch (show s.rc.run = .running from hr).symm.trans idle

/-- A request that is taken: only PRESET_POSITION lowers the mark. -/
theorem follows_of_taking {c : Instr} {s t : State} (h : Taking c s t) (hrun : runLaw s) (hs : Follows s s) :
    Follows s t ∧ (c ≠ .presetPosition → s.du.hwm ≤ t.du.hwm) := by
  obtain @⟨f, u, a, -, effect⟩ := h
  have hdropped : Continues s (dropFrame s) := Continues.steady ⟨hs, Int.le_refl _⟩ (.setLi _)
  by_cases hc : c = .presetPosition
  · subst hc
    have hpreset := follows_of_preset effect (setLi_runLaw _ hrun) ⟨hdropped.live, hdropped.law, fun _ _ => .inl⟩
    exact ⟨Follows.steady (v := placeReply f a u) ⟨hpreset.live, hpreset.law, hpreset.awaits⟩ (.setLi _),
      fun h => absurd rfl h⟩
  · have hreplied : Continues s (placeReply f a u) :=
      (continues_of_effect effect hc (setLi_runLaw _ hrun) hdropped).steady (.setLi _)
    exact ⟨hreplied.toFollows, fun _ => hreplied.mark⟩

/-! ## Resets -/

/-- A state in IDLE with the engines reset and no step awaiting. -/
theorem follows_quiet {s t : State} (hlive : t.pinReset = false) (hb : t.boundary = none) (hse : t.se = ⟨Se.reset, Se.reset⟩)
    (hv : t.it.verdicts = ⟨[], []⟩) (hrun : t.rc.run = .idle) : Follows s t := by
  refine ⟨hlive, evaluationLaw_quiet hb hse hv hrun, fun x z hz => ?_⟩
  unfold State.awaiting at hz
  rw [hv] at hz
  cases x <;> cases hz

theorem runReset_follows {s : State} (hs : Follows s s) : Follows s (runReset s) ∧ (runReset s).du.hwm = s.du.hwm := by
  obtain ⟨hboundary, -⟩ := hs.parts
  obtain ⟨v, c, hrecords, -⟩ := recordsTakeEffect_frame (runCleared s)
  unfold runReset
  rw [hrecords]
  exact ⟨follows_quiet hs.live hboundary rfl rfl rfl, rfl⟩

/-- R182: the request that a RUN reset takes may preset the mark. -/
theorem resetRunActs_follows {s : State} (hs : Follows s s) : Follows s (resetRunActs s) := by
  obtain ⟨hreset, hhwm⟩ := runReset_follows hs
  have hself := Follows.refl hreset.live hreset.law
  rw [resetRunActs_eq]
  rcases takeOldest_cases (runReset s) with h | ⟨c, h⟩
  · rw [h]; exact hreset
  · obtain ⟨htaken, -⟩ := follows_of_taking h (runReset_runLaw s) hself
    refine ⟨htaken.live, htaken.law, fun x z hz => (htaken.awaits x z hz).elim (hreset.awaits x z) fun hlt => .inr ?_⟩
    rwa [hhwm] at hlt

theorem resetFullActs_follows {s : State} (hs : Follows s s) : Follows s (resetFullActs s) := by
  obtain ⟨hboundary, -⟩ := hs.parts
  exact follows_quiet hs.live hboundary rfl rfl rfl

/-! ## Events -/

theorem Continues.forwardCount {s : State} (hs : Continues s s) (first : Side) : Continues s (forwardCount first s) := by
  unfold Machine.forwardCount
  dsimp only
  split
  · exact hs.steady (.commitDu _ rfl rfl)
  · split
    · split
      case isTrue hboundary =>
        simp only [isFireBoundary, Bool.and_eq_true, decide_eq_true_eq] at hboundary
        obtain ⟨hrun, habove⟩ := hboundary
        obtain ⟨l, heq, -⟩ := commitDu_frame noLatch ((s.du.takeCount s.du.forwardPair s.now).forwardBoundary
          (s.du.step + 1) s.now s.ps.active.longerPlanTime) s
        rw [heq]
        exact fireBoundary_continues first hs.live hs.law hrun rfl habove rfl rfl rfl rfl rfl
      case isFalse hnot =>
        refine hs.commitDu _ rfl fun hrun => .inr ?_
        simp only [isFireBoundary, Bool.and_eq_true, decide_eq_true_eq, not_and, Int.not_lt] at hnot
        exact hnot hrun
    · refine Continues.steady (u := Machine.commitDu _ _ s) (hs.steady (.commitDu _ ?_ ?_)) (.beginStop _)
      · rfl
      · rfl

theorem Continues.reverseCount {s : State} (hs : Continues s s) : Continues s (reverseCount s) := by
  unfold Machine.reverseCount
  dsimp only
  split
  · exact hs.steady (.commitDu _ rfl rfl)
  · split
    · exact hs.commitDu _ rfl fun _ => .inl (Int.sub_le_self _ (by decide))
    · exact hs.steady (.commitDu _ rfl rfl)

theorem Continues.sending {s t : State} (hs : Continues s s) (h : Sending s t) : Continues s t := by
  cases h with
  | nothing => exact hs
  | frame => exact hs.steady (.setLi _)
  | @motion l => exact hs.steady ((Steady.setLi l).trans ⟨rfl, rfl, rfl, rfl, rfl, rfl, id, id⟩)
  | @flaw l => exact hs.steady (((Steady.setLi l).trans .releaseClusters).trans .drainEndTest)

/-- R108: between commands no record waits for its evaluation. -/
theorem Continues.stepEvaluation {s : State} (hs : Continues s s) (x : Side) : Continues s (stepEvaluation x s) := by
  obtain ⟨-, hside, -⟩ := hs.parts
  unfold Machine.stepEvaluation
  rw [(hside x).1]
  exact hs

/-- An event that is no reset. -/
theorem continues_of_event {c : Instr} {s t : State} (h : Event c s t) (hfall : ∀ after, c ≠ .pinResetAssert after)
    (hrun : c ≠ .resetRunActs) (hfull : c ≠ .resetFullActs) (hs : Continues s s) : Continues s t := by
  cases h with
  | forwardCount => exact hs.forwardCount _
  | reverseCount => exact hs.reverseCount
  | illegalTransition => exact hs.steady (.commitDu _ rfl rfl)
  | standstillTimerExpiry =>
    unfold standstillExpiry
    split
    · exact hs
    · exact (hs.steady (.advanceTo _)).steady (.commitDu _ rfl rfl)
  | carriageInputChange => exact hs.steady (.modifySc _ _)
  | debounceExpiry => exact (continues_sideKept s).debounceExpiry _ hs
  | hvrdyArrival => exact (continues_sideKept s).hvrdyArrival _ hs
  | hvrdyFall => exact hs.steady (.modifySc _ _)
  | hvfltAsserted => exact (continues_sideKept s).hvfltChange _ _ hs
  | rampTimerExpiry => exact (continues_sideKept s).rampExpiry _ hs
  | planSwapAtBoundary => exact hs.steady .planSwapAtBoundary
  | channelRecordTakesEffect =>
    split
    · exact hs.steady (.recordTakesEffect _ _)
    · exact hs
  | shotCompletion => exact hs.completeShot _ _ _
  | stepEvaluation => exact (hs.stepEvaluation _).steady .drainTest
  | clusterRelease => exact hs.steady (Steady.releaseFront.trans .drainEndTest)
  | drainReleasePhase => exact hs.steady .drainTest
  | drainEnd => exact hs.steady .drainEndTest
  | characterReceived => exact hs.steady (.setLi _)
  | idleTimerExpiry =>
    unfold idleExpiry
    split
    · exact hs
    · exact hs.steady ⟨rfl, rfl, rfl, rfl, rfl, rfl, id, id⟩
  | holdInAssert => exact hs.steady (.setLi _)
  | holdInRelease =>
    have hreleased := Continues.steady hs (Steady.setLi { s.li with holdIn := false })
    have hsent := Continues.sending (Continues.refl hreleased.live hreleased.law) (transmissionStart_cases _)
    exact ⟨⟨hsent.live, hsent.law, hsent.awaits⟩, hsent.mark⟩
  | transmissionStart => exact hs.sending (transmissionStart_cases s)
  | transmissionEnd =>
    unfold transmissionEnd
    split
    · exact hs
    · exact hs.steady ⟨rfl, rfl, rfl, rfl, rfl, rfl, id, id⟩
  | resetRunActs => exact absurd rfl hrun
  | resetFullActs => exact absurd rfl hfull
  | pinResetAssert => exact absurd rfl (hfall _)

/-! ## Every step -/

/-- What the law of step evaluation says of a step from `s` to `t`. -/
def evaluationStep (s t : State) : Prop :=
  evaluationLaw t ∧ (t.pinReset = false → ∀ (x : Side) (z : Int), z ∈ t.awaiting x →
    (z ∈ s.awaiting x ∨ s.du.hwm < z) ∧ z ≤ t.du.hwm)

theorem Follows.evaluationStep {s t : State} (h : Follows s t) : evaluationStep s t := by
  obtain ⟨-, hside, -⟩ := h.parts
  exact ⟨h.law, fun _ x z hz => ⟨h.awaits x z hz, (hside x).le hz⟩⟩

/-- While RESET_N is low the law waits. -/
theorem evaluationStep_low {s t : State} (h : t.pinReset = true) : evaluationStep s t :=
  ⟨fun hlive => (nomatch h.symm.trans hlive), fun hlive => (nomatch h.symm.trans hlive)⟩

/-- The commands that may lower the high-water mark. -/
def lowersMark (c : Instr) : Prop :=
  c = .presetPosition ∨ c = .resetRunActs ∨ c = .resetFullActs ∨ ∃ after pins, c = .pinResetRelease after pins

theorem liveStep_evaluation {c : Instr} {s t : State} (h : LiveStep c s t) (hrun : runLaw s) (hs : Follows s s) :
    evaluationStep s t ∧ (t.du.hwm < s.du.hwm → lowersMark c) := by
  have hmark : s.du.hwm ≤ t.du.hwm → t.du.hwm < s.du.hwm → lowersMark c := fun hle hlt => absurd hle (Int.not_le.2 hlt)
  cases h with
  | idle => exact ⟨hs.evaluationStep, hmark (Int.le_refl _)⟩
  | taking h =>
    obtain ⟨htaken, hle⟩ := follows_of_taking h hrun hs
    refine ⟨htaken.evaluationStep, fun hlt => ?_⟩
    by_cases hc : c = .presetPosition
    · exact .inl hc
    · exact hmark (hle hc) hlt
  | event h =>
    by_cases hfall : ∃ after, c = .pinResetAssert after
    · obtain ⟨after, rfl⟩ := hfall
      cases h
      exact ⟨evaluationStep_low rfl, hmark (Int.le_refl _)⟩
    · by_cases hreset : c = .resetRunActs
      · subst hreset
        cases h
        exact ⟨Follows.evaluationStep (actAwaited_keeps (P := Follows s) hs (resetRunActs_follows hs)), fun _ => .inr (.inl rfl)⟩
      · by_cases hfull : c = .resetFullActs
        · subst hfull
          cases h
          exact ⟨Follows.evaluationStep (actAwaited_keeps (P := Follows s) hs (resetFullActs_follows hs)),
            fun _ => .inr (.inr (.inl rfl))⟩
        · have hevent := continues_of_event h (fun after heq => hfall ⟨after, heq⟩) hreset hfull ⟨hs, Int.le_refl _⟩
          exact ⟨hevent.evaluationStep, hmark hevent.mark⟩

/-- Settles O55: the Distance Unit's ranges, and at each side the steps that await evaluation between the engine's step and
the high-water mark. -/
theorem distanceLawKept : Obligations.DistanceLawKept := by
  refine ⟨fun s t => step_keeps_duLaw, fun s t hrun hlaw h => ?_⟩
  have hresult : evaluationStep s t ∧ (t.du.hwm < s.du.hwm → ∃ c rest, s.pending = c :: rest ∧ lowersMark c) := by
    cases step_cases h with
    | empty =>
      refine ⟨?_, fun hlt => absurd hlt (Int.lt_irrefl _)⟩
      cases hlow : s.pinReset with
      | false => exact (Follows.refl hlow hlaw).evaluationStep
      | true => exact evaluationStep_low hlow
    | held front low => exact ⟨evaluationStep_low low, fun hlt => absurd hlt (Int.lt_irrefl _)⟩
    | @release after pins rest front low =>
      exact ⟨Follows.evaluationStep (follows_quiet rfl rfl rfl rfl rfl),
        fun _ => ⟨_, _, front, .inr (.inr (.inr ⟨after, pins, rfl⟩))⟩⟩
    | @live c rest _ front high h =>
      obtain ⟨hstep, hmark⟩ := liveStep_evaluation h (by exact hrun) (Follows.refl high (by exact hlaw))
      exact ⟨hstep, fun hlt => ⟨c, rest, front, hmark hlt⟩⟩
  obtain ⟨⟨hnext, hawaits⟩, hmark⟩ := hresult
  exact ⟨hnext, hawaits, hmark⟩

end Sys2Proof.Machine

/-!
The law of the clusters (R128) under sealing, release, start, join and merge (R130 to R138).
-/
namespace Sys2Proof.Machine

/-- A head by another name of its entry. -/
theorem headAt {t : It} {g h : Fin 64} (heq : g = h) {b : Indication} {o : Nat} {c : Cluster}
    (hb : t.table[h] = .held b ⟨h, o, some c⟩) : t.table[g] = .held b ⟨g, o, some c⟩ := by
  subst heq
  exact hb

theorem It.table_congr (t : It) {i j : Fin 64} (h : i = j) : t.table[i] = t.table[j] := by
  subst h
  rfl

/-! ## Sealing -/

/-- The HELD entries of `t` are members in `u` as they were, under clusters of the same counts. -/
def MembersKept (t u : It) : Prop :=
  ∀ (i : Fin 64) (a : Indication) (m : Membership), t.table[i] = .held a m → ∃ n : Membership,
    u.table[i] = .held a n ∧ n.head = m.head ∧ n.order = m.order ∧
      n.cluster.map Cluster.count = m.cluster.map Cluster.count

theorem clusterLaw_of_members {t u : It} (h : MembersKept t u) (k : MembersKept u t) (hl : clusterLaw t) : clusterLaw u := by
  obtain ⟨hmember, hunique, hfull⟩ := hl
  refine ⟨fun i a n hi => ?_, fun i j a b m n hi hj hhead horder => ?_, fun e a o c he l hl1 hl2 => ?_⟩
  · obtain ⟨m, hm, hh, ho, hc⟩ := k i a n hi
    obtain ⟨hiff, b, o, c, hb, hside, hgeneration, hone, hle, hmax⟩ := hmember i a m hm
    obtain ⟨⟨g, o', d⟩, hn', hg, ho', hd⟩ := h m.head b _ hb
    dsimp only at hg ho' hd
    subst hg ho'
    obtain ⟨c', rfl, hc'⟩ := Option.map_eq_some_iff.1 hd
    have hsome : n.cluster.isSome = m.cluster.isSome := by
      have := congrArg Option.isSome hc
      simpa only [Option.isSome_map] using this.symm
    refine ⟨by rw [hsome, ← hh]; exact hiff, b, _, c', headAt hh.symm hn', hside, hgeneration, ?_, ?_, ?_⟩
    · rw [← ho]; exact hone
    · rw [← ho, hc']; exact hle
    · rw [hc']; exact hmax
  · obtain ⟨m', hm', hh, ho, -⟩ := k i a m hi
    obtain ⟨n', hn', hh', ho', -⟩ := k j b n hj
    exact hunique i j a b m' n' hm' hn' (by rw [hh, hh', hhead]) (by rw [ho, ho', horder])
  · obtain ⟨⟨g, o', d⟩, hm, hg, ho, hd⟩ := k e a _ he
    dsimp only at hg ho hd
    subst hg ho
    obtain ⟨c', rfl, hc'⟩ := Option.map_eq_some_iff.1 hd
    obtain ⟨i, b, m, hi, hhead, horder⟩ := hfull g a o' c' hm l hl1 (by rw [hc']; exact hl2)
    obtain ⟨n, hn, hh, ho, -⟩ := h i b m hi
    exact ⟨i, b, n, hn, hh.trans hhead, ho.trans horder⟩

/-- `u` differs from `t` in that clusters are sealed. -/
def Seals (t u : It) : Prop :=
  ∀ e : Fin 64, u.table[e] = t.table[e] ∨
    ∃ (g : Fin 64) (a : Indication) (o : Nat) (r : Int) (n : Nat) (s : Option ReleaseMode),
    t.table[e] = .held a ⟨g, o, some ⟨r, n, none⟩⟩ ∧ u.table[e] = .held a ⟨g, o, some ⟨r, n, s⟩⟩

theorem Seals.clusterLaw {t u : It} (h : Seals t u) (hl : clusterLaw t) : clusterLaw u := by
  refine clusterLaw_of_members (fun i a m hi => ?_) (fun i a m hi => ?_) hl
  · rcases h i with heq | ⟨g, a', o, r, n, s, ht, hu⟩
    · exact ⟨m, heq.trans hi, rfl, rfl, rfl⟩
    · obtain ⟨rfl, rfl⟩ := TableEntry.held.inj (ht.symm.trans hi)
      exact ⟨_, hu, rfl, rfl, rfl⟩
  · rcases h i with heq | ⟨g, a', o, r, n, s, ht, hu⟩
    · exact ⟨m, heq.symm.trans hi, rfl, rfl, rfl⟩
    · obtain ⟨rfl, rfl⟩ := TableEntry.held.inj (hu.symm.trans hi)
      exact ⟨_, ht, rfl, rfl, rfl⟩

/-- Whether an entry is an unsealed head. -/
def TableEntry.unsealed (e : TableEntry) : Prop :=
  ∃ (g : Fin 64) (a : Indication) (o : Nat) (r : Int) (n : Nat), e = .held a ⟨g, o, some ⟨r, n, none⟩⟩

theorem It.sealDue_seals (t : It) (hwm : Int) : Seals t (t.sealDue hwm) := by
  intro e
  by_cases h : (t.table[e]).unsealed
  · obtain ⟨g, a, o, r, n, he⟩ := h
    exact .inr ⟨g, a, o, r, n, _, he, It.sealDue_head he⟩
  · exact .inl (It.seal_other fun g a o r n he => h ⟨g, a, o, r, n, he⟩).1

theorem It.sealForced_seals (t : It) : Seals t t.sealForced := by
  intro e
  by_cases h : (t.table[e]).unsealed
  · obtain ⟨g, a, o, r, n, he⟩ := h
    exact .inr ⟨g, a, o, r, n, _, he, It.sealForced_head he⟩
  · exact .inl (It.seal_other (hwm := 0) fun g a o r n he => h ⟨g, a, o, r, n, he⟩).2

/-! ## Heads -/

/-- An entry that is not HELD is the head of none. -/
theorem clusterLaw.head_ne {t : It} (hl : clusterLaw t) {i j : Fin 64} {a : Indication} {m : Membership}
    (hi : t.table[i] = .held a m) (hj : ∀ b n, t.table[j] ≠ .held b n) : m.head ≠ j := by
  obtain ⟨-, b, o, c, hb, -⟩ := hl.1 i a m hi
  exact fun heq => hj b _ ((t.table_congr heq).symm.trans hb)

/-- A head is its own member. -/
theorem clusterLaw.own {t : It} (hl : clusterLaw t) {i : Fin 64} {a : Indication} {g : Fin 64} {o : Nat} {c : Cluster}
    (hi : t.table[i] = .held a ⟨g, o, some c⟩) : g = i := (hl.1 i a _ hi).1.1 rfl

theorem clusterLaw.count {t : It} (hl : clusterLaw t) {h : Fin 64} {a : Indication} {o : Nat} {c : Cluster}
    (hh : t.table[h] = .held a ⟨h, o, some c⟩) : 1 ≤ o ∧ o ≤ c.count ∧ c.count ≤ 8 := by
  obtain ⟨-, b, o', c', hb, -, -, hone, hle, hmax⟩ := hl.1 h a _ hh
  obtain ⟨-, heq⟩ := TableEntry.held.inj (hh.symm.trans hb)
  obtain ⟨-, -, hc⟩ := Membership.mk.inj heq
  rw [← Option.some.inj hc] at hle hmax
  exact ⟨hone, hle, hmax⟩

/-- What the law says of a member of a head. -/
theorem clusterLaw.member {t : It} (hl : clusterLaw t) {h i : Fin 64} {a b : Indication} {o : Nat} {c : Cluster} {m : Membership}
    (hh : t.table[h] = .held a ⟨h, o, some c⟩) (hi : t.table[i] = .held b m) (hm : m.head = h) :
    a.side = b.side ∧ a.generation = b.generation ∧ 1 ≤ m.order ∧ m.order ≤ c.count := by
  subst hm
  obtain ⟨-, a', o', c', ha, hside, hgeneration, hone, hle, -⟩ := hl.1 i b m hi
  obtain ⟨rfl, heq⟩ := TableEntry.held.inj (hh.symm.trans ha)
  obtain ⟨-, -, hc⟩ := Membership.mk.inj heq
  rw [← Option.some.inj hc] at hle
  exact ⟨hside, hgeneration, hone, hle⟩

/-! ## Release -/

theorem Track.release_get (hwm : Int) (h : Fin 64) (a : Indication) (c : Cluster) (k : Track) {i : Fin 64} {b : Indication}
    {m : Membership} : (k.release hwm h a c).it.table[i] = .held b m ↔
      k.it.table[i] = .held b m ∧ i ≠ h ∧ m.head ≠ h := by
  have hget : (k.release hwm h a c).it.table[i] =
      if i = h || (k.it.table[i]).memberOf h then .free else k.it.table[i] := It.mapTable_get _ _ _
  rw [hget]
  constructor
  · intro heq
    split at heq
    · cases heq
    case isFalse hnot =>
      simp only [Bool.or_eq_true, decide_eq_true_eq, not_or] at hnot
      obtain ⟨hi, hmember⟩ := hnot
      exact ⟨heq, hi, fun hm => hmember (TableEntry.memberOf_iff.2 ⟨b, m, heq, hm⟩)⟩
  · rintro ⟨heq, hi, hm⟩
    rw [if_neg, heq]
    simp only [Bool.or_eq_true, decide_eq_true_eq, not_or]
    refine ⟨hi, fun hmember => ?_⟩
    obtain ⟨b', m', heq', hm'⟩ := TableEntry.memberOf_iff.1 hmember
    obtain ⟨-, rfl⟩ := TableEntry.held.inj (heq.symm.trans heq')
    exact hm hm'

/-- R135: a cluster leaves with all its members. -/
theorem Track.release_clusterLaw (hwm : Int) {h : Fin 64} {a : Indication} {o : Nat} {c : Cluster} {k : Track}
    (hl : clusterLaw k.it) (hh : k.it.table[h] = .held a ⟨h, o, some c⟩) : clusterLaw (k.release hwm h a c).it := by
  have hget := fun i b m => Track.release_get hwm h a c k (i := i) (b := b) (m := m)
  obtain ⟨hmember, hunique, hfull⟩ := id hl
  refine ⟨fun i b m hi => ?_, fun i j b d m n hi hj hhead horder => ?_, fun g b o' d hg l hl1 hl2 => ?_⟩
  · obtain ⟨hi, -, hm⟩ := (hget i b m).1 hi
    obtain ⟨hiff, b', o', d, hb, hrest⟩ := hmember i b m hi
    exact ⟨hiff, b', o', d, (hget m.head b' _).2 ⟨hb, hm, hm⟩, hrest⟩
  · exact hunique i j b d m n ((hget i b m).1 hi).1 ((hget j d n).1 hj).1 hhead horder
  · obtain ⟨hg, hgh, -⟩ := (hget g b _).1 hg
    obtain ⟨i, b', m, hi, hm, horder⟩ := hfull g b o' d hg l hl1 hl2
    have hih : i ≠ h := fun heq => by
      rw [heq, hh] at hi
      obtain ⟨-, rfl⟩ := TableEntry.held.inj hi
      exact hgh hm.symm
    exact ⟨i, b', m, (hget i b' m).2 ⟨hi, hih, by rw [hm]; exact hgh⟩, hm, horder⟩

/-! ## Start -/

/-- R130: a joiner whose entry was not HELD starts a cluster of one. -/
theorem It.start_clusterLaw {t : It} (hl : clusterLaw t) {j : Fin 64} (hj : ∀ b n, t.table[j] ≠ .held b n)
    (a : Indication) (r : Int) (s : Option ReleaseMode) :
    clusterLaw (t.setEntry j (.held a ⟨j, 1, some ⟨r, 1, s⟩⟩)) := by
  have hget : ∀ i b m, (t.setEntry j (.held a ⟨j, 1, some ⟨r, 1, s⟩⟩)).table[i] = .held b m ↔
      (i = j ∧ b = a ∧ m = ⟨j, 1, some ⟨r, 1, s⟩⟩) ∨ (i ≠ j ∧ t.table[i] = .held b m) := by
    intro i b m
    rw [It.setEntry_get]
    by_cases hij : i = j
    · rw [if_pos hij, TableEntry.held.injEq]
      exact ⟨fun ⟨h1, h2⟩ => .inl ⟨hij, h1.symm, h2.symm⟩, fun h => h.elim (fun ⟨_, h1, h2⟩ => ⟨h1.symm, h2.symm⟩)
        fun h => absurd hij h.1⟩
    · rw [if_neg hij]
      exact ⟨fun h => .inr ⟨hij, h⟩, fun h => h.elim (fun h => absurd h.1 hij) fun h => h.2⟩
  obtain ⟨hmember, hunique, hfull⟩ := id hl
  refine ⟨fun i b m hi => ?_, fun i i' b d m n hi hi' hhead horder => ?_, fun g b o c hg l hl1 hl2 => ?_⟩
  · rcases (hget i b m).1 hi with ⟨rfl, rfl, rfl⟩ | ⟨-, hi⟩
    · exact ⟨⟨fun _ => rfl, fun _ => rfl⟩, b, 1, ⟨r, 1, s⟩, hi, rfl, rfl, Nat.le_refl 1, Nat.le_refl 1,
        (by decide : 1 ≤ 8)⟩
    · obtain ⟨hiff, b', o, c, hb, hrest⟩ := hmember i b m hi
      exact ⟨hiff, b', o, c, (hget _ _ _).2 (.inr ⟨hl.head_ne hi hj, hb⟩), hrest⟩
  · rcases (hget i b m).1 hi with ⟨rfl, rfl, rfl⟩ | ⟨-, hold⟩ <;>
      rcases (hget i' d n).1 hi' with ⟨rfl, rfl, rfl⟩ | ⟨-, hold'⟩
    · rfl
    · exact absurd hhead.symm (hl.head_ne hold' hj)
    · exact absurd hhead (hl.head_ne hold hj)
    · exact hunique i i' b d m n hold hold' hhead horder
  · rcases (hget g b _).1 hg with ⟨rfl, rfl, heq⟩ | ⟨-, hg⟩
    · obtain ⟨-, rfl, hc⟩ := Membership.mk.inj heq
      have hcount : c.count = 1 := by rw [Option.some.inj hc]
      exact ⟨g, b, _, hg, rfl, show 1 = l by omega⟩
    · obtain ⟨i, b', m, hi, hm, horder⟩ := hfull g b o c hg l hl1 hl2
      refine ⟨i, b', m, (hget _ _ _).2 (.inr ⟨fun heq => hj b' m (heq ▸ hi), hi⟩), hm, horder⟩

/-! ## Join -/

/-- R131: the joiner becomes the last member of a cluster of its side and generation with room. -/
theorem It.join_clusterLaw {t : It} (hl : clusterLaw t) {j h : Fin 64} (hj : ∀ b n, t.table[j] ≠ .held b n)
    {i a : Indication} {o : Nat} {c : Cluster} (hh : t.table[h] = .held a ⟨h, o, some c⟩) (hside : a.side = i.side)
    (hgeneration : a.generation = i.generation) (hroom : c.count < 8) : clusterLaw (t.join j i h c) := by
  have hjh : j ≠ h := fun heq => hj a _ (heq ▸ hh)
  obtain ⟨hone, hle, -⟩ := hl.count hh
  have hat := It.join_get (i := i) (c := c) hjh hh
  have hath : (t.join j i h c).table[h] =
      .held a ⟨h, o, some ⟨max c.release (i.last + t.settings.window), c.count + 1, none⟩⟩ := by rw [hat, if_pos rfl]
  have hatj : (t.join j i h c).table[j] = .held i ⟨h, c.count + 1, none⟩ := by rw [hat, if_neg hjh, if_pos rfl]
  have hatother : ∀ e, e ≠ h → e ≠ j → (t.join j i h c).table[e] = t.table[e] := fun e he he' => by
    rw [hat, if_neg he, if_neg he']
  have hcases : ∀ (e : Fin 64) (b : Indication) (m : Membership), (t.join j i h c).table[e] = .held b m →
      (e = j ∧ b = i ∧ m = ⟨h, c.count + 1, none⟩) ∨
      ∃ m', t.table[e] = .held b m' ∧ m'.head = m.head ∧ m'.order = m.order ∧
        (m.cluster.isSome = m'.cluster.isSome) := by
    intro e b m he
    by_cases heh : e = h
    · subst heh
      obtain ⟨rfl, rfl⟩ := TableEntry.held.inj (hath.symm.trans he)
      exact .inr ⟨_, hh, rfl, rfl, rfl⟩
    · by_cases hej : e = j
      · subst hej
        obtain ⟨rfl, rfl⟩ := TableEntry.held.inj (hatj.symm.trans he)
        exact .inl ⟨rfl, rfl, rfl⟩
      · exact .inr ⟨m, (hatother e heh hej).symm.trans he, rfl, rfl, rfl⟩
  obtain ⟨hmember, hunique, hfull⟩ := id hl
  refine ⟨fun e b m he => ?_, fun e e' b d m n he he' hhead horder => ?_, fun g b o' d hg l hl1 hl2 => ?_⟩
  · rcases hcases e b m he with ⟨rfl, rfl, rfl⟩ | ⟨m', he', hm, ho, hsome⟩
    · exact ⟨⟨nofun, fun heq => absurd heq.symm hjh⟩, a, o, _, hath, hside, hgeneration, by simp, Nat.le_refl _, hroom⟩
    · obtain ⟨hiff, b', o', d, hb, hs, hg, h1, h2, h3⟩ := hmember e b m' he'
      refine ⟨by rw [hsome, ← hm]; exact hiff, ?_⟩
      by_cases hmh : m'.head = h
      · obtain ⟨hs', hg', h1', h2'⟩ := hl.member hh he' hmh
        rw [← ho]
        exact ⟨a, o, _, headAt (hm.symm.trans hmh) hath, hs', hg', h1', Nat.le_succ_of_le h2', hroom⟩
      · rw [← ho]
        exact ⟨b', o', d, headAt hm.symm ((hatother _ hmh (hl.head_ne he' hj)).trans hb), hs, hg, h1, h2, h3⟩
  · have hold : ∀ (x : Fin 64) (b : Indication) (m : Membership), t.table[x] = .held b m → m.head = h →
        m.order = c.count + 1 → False := fun x b m hx hm ho => by
      obtain ⟨-, -, -, hle'⟩ := hl.member hh hx hm
      omega
    rcases hcases e b m he with ⟨rfl, rfl, rfl⟩ | ⟨m', he1, hm, ho, -⟩ <;>
      rcases hcases e' d n he' with ⟨rfl, rfl, rfl⟩ | ⟨n', he2, hn, ho', -⟩
    · rfl
    · exact (hold e' d n' he2 (hn.trans hhead.symm) (ho'.trans horder.symm)).elim
    · exact (hold e b m' he1 (hm.trans hhead) (ho.trans horder)).elim
    · exact hunique e e' b d m' n' he1 he2 (by rw [hm, hn, hhead]) (by rw [ho, ho', horder])
  · have hback : ∀ (x : Fin 64) (b : Indication) (m : Membership), t.table[x] = .held b m →
        ∃ m' : Membership, (t.join j i h c).table[x] = .held b m' ∧ m'.head = m.head ∧ m'.order = m.order := fun x b m hx => by
      by_cases hxh : x = h
      · subst hxh
        obtain ⟨rfl, rfl⟩ := TableEntry.held.inj (hh.symm.trans hx)
        exact ⟨_, hath, rfl, rfl⟩
      · exact ⟨m, (hatother x hxh fun heq => hj b m (heq ▸ hx)).trans hx, rfl, rfl⟩
    by_cases hgh : g = h
    · subst hgh
      obtain ⟨-, heq⟩ := TableEntry.held.inj (hath.symm.trans hg)
      obtain ⟨-, -, hd⟩ := Membership.mk.inj heq
      rw [← Option.some.inj hd] at hl2
      by_cases hlast : l = c.count + 1
      · exact ⟨j, i, _, hatj, rfl, hlast.symm⟩
      · obtain ⟨x, b', m, hx, hm, ho⟩ := hfull g a o c hh l hl1 (by dsimp only at hl2; omega)
        obtain ⟨m', hx', hm', ho'⟩ := hback x b' m hx
        exact ⟨x, b', m', hx', hm'.trans hm, ho'.trans ho⟩
    · have hgj : g ≠ j := fun heq => by
        rw [heq, hatj] at hg
        obtain ⟨-, heq⟩ := TableEntry.held.inj hg
        obtain ⟨-, -, hd⟩ := Membership.mk.inj heq
        cases hd
      obtain ⟨x, b', m, hx, hm, ho⟩ := hfull g b o' d ((hatother g hgh hgj).symm.trans hg) l hl1 hl2
      obtain ⟨m', hx', hm', ho'⟩ := hback x b' m hx
      exact ⟨x, b', m', hx', hm'.trans hm, ho'.trans ho⟩

end Sys2Proof.Machine

/-!
The keys of the OPEN indications (R105): which operations of the tracker open none, what a gate does to them, and that every
step keeps them unique.
-/
namespace Sys2Proof.Machine

/-! ## Operations that open nothing -/

theorem It.usedBy_mono {t u : It} {x : Side} (h : ∀ i : Fin 64, (u.table[i]).side? = some x → (t.table[i]).side? = some x) :
    u.usedBy x ≤ t.usedBy x :=
  List.countP_mono_left fun i _ hu => decide_eq_true (h i (of_decide_eq_true hu))

/-- Every entry is as it was, FREE, or HELD by the side that used it. -/
def Retires (t u : It) : Prop :=
  ∀ i : Fin 64, u.table[i] = t.table[i] ∨ u.table[i] = .free ∨
    ∃ (a : Indication) (m : Membership), u.table[i] = .held a m ∧ (t.table[i]).side? = some a.side

namespace Retires

theorem refl (t : It) : Retires t t := fun _ => .inl rfl

theorem trans {t u v : It} (h : Retires t u) (k : Retires u v) : Retires t v := by
  intro i
  rcases k i with hsame | hfree | ⟨a, m, hheld, hside⟩
  · rw [hsame]
    exact h i
  · exact .inr (.inl hfree)
  · refine .inr (.inr ⟨a, m, hheld, ?_⟩)
    rcases h i with hsame | hfree | ⟨b, n, hb, hsideb⟩
    · rw [← hsame]; exact hside
    · rw [hfree] at hside; cases hside
    · rw [hb] at hside
      exact hsideb.trans hside

theorem setHeld {t : It} {j : Fin 64} {a : Indication} (h : (t.table[j]).side? = some a.side) (m : Membership) :
    Retires t (t.setEntry j (.held a m)) := by
  intro i
  rw [It.setEntry_get]
  split
  case isTrue heq => exact .inr (.inr ⟨a, m, rfl, heq ▸ h⟩)
  case isFalse => exact .inl rfl

theorem setFree (t : It) (j : Fin 64) : Retires t (t.setEntry j .free) := by
  intro i
  rw [It.setEntry_get]
  split
  · exact .inr (.inl rfl)
  · exact .inl rfl

theorem setCluster (t : It) (h : Fin 64) (c : Cluster) : Retires t (t.setCluster h c) := by
  unfold It.setCluster
  split
  case h_1 a m heq => exact setHeld (by rw [heq]; rfl) _
  · exact refl t
  · exact refl t

theorem join {t : It} {j : Fin 64} {a : Indication} (ha : (t.table[j]).side? = some a.side) (h : Fin 64) (c : Cluster) :
    Retires t (t.join j a h c) :=
  (setHeld ha _).trans (setCluster _ h _)

theorem regroup (h : Fin 64) (cs : List (Fin 64 × Cluster)) (base : Nat) (t : It) : Retires t (It.regroup h cs base t) := by
  intro i
  rw [It.regroup_get]
  cases t.table[i] with
  | held a m => exact .inr (.inr ⟨a, _, rfl, rfl⟩)
  | free | opened => exact .inl rfl

theorem merge {t : It} {j : Fin 64} {a : Indication} (ha : (t.table[j]).side? = some a.side) (h : Fin 64)
    (cs : List (Fin 64 × Cluster)) : Retires t (t.merge j a h cs) := by
  refine ((regroup h cs 0 t).trans (setHeld ?_ _)).trans (setCluster _ h _)
  rw [It.regroup_get, ← ha]
  cases t.table[j] <;> rfl

theorem of_seals {t u : It} (h : Seals t u) : Retires t u := by
  intro i
  rcases h i with heq | ⟨g, a, o, r, n, s, ht, hu⟩
  · exact .inl heq
  · exact .inr (.inr ⟨a, _, hu, by rw [ht]; rfl⟩)

section Track
variable {hwm : Int}

theorem release (h : Fin 64) (a : Indication) (c : Cluster) (k : Track) : Retires k.it (k.release hwm h a c).it := by
  intro i
  rw [show (k.release hwm h a c).it.table[i] = _ from It.mapTable_get _ _ _]
  split
  · exact .inr (.inl rfl)
  · exact .inl rfl

theorem releaseFront (k : Track) : Retires k.it (k.releaseFront hwm).it := by
  unfold Track.releaseFront
  split
  · exact refl _
  · split
    · exact release _ _ _ _
    · exact refl _

theorem releaseLoop : ∀ (n : Nat) (k : Track), Retires k.it (k.releaseLoop hwm n).it
  | 0, k => refl k.it
  | n + 1, k => (releaseFront k).trans (releaseLoop n _)

theorem releaseAll (k : Track) : Retires k.it (k.releaseAll hwm).it := releaseLoop 64 k

section Entry
variable {j : Fin 64} {a : Indication} {k : Track} (ha : (k.it.table[j]).side? = some a.side)
include ha

theorem startCluster : Retires k.it (k.startCluster hwm j a).it := by
  have hset : ∀ m : Membership, Retires k.it (k.it.setEntry j (.held a m)) := setHeld ha
  unfold Track.startCluster
  dsimp only
  split
  · exact trans (hset _) (releaseAll ⟨k.it.setEntry j _, k.li⟩)
  · exact hset _

theorem form : Retires k.it (k.form hwm j a).it := by
  unfold Track.form
  split
  · exact startCluster ha
  · split
    · exact join ha _ _
    · exact startCluster ha
  · split
    · exact merge ha _ _
    · split
      · exact join ha _ _
      · exact startCluster ha

theorem close : Retires k.it (k.close hwm j a).it := by
  unfold Track.close
  split
  · exact setFree k.it j
  · exact form ha

end Entry

theorem closeTest (x : Side) (z : Int) (k : Track) (i : Fin 64) : Retires k.it (k.closeTest hwm x z i).it := by
  unfold Track.closeTest
  split
  case h_1 a run heq =>
    have ha : (k.it.table[i]).side? = some a.side := by rw [heq]; rfl
    split
    · split
      · exact close ha
      · split
        · exact close ha
        · exact refl _
    · exact refl _
  · exact refl _
  · exact refl _

theorem closeWith (m : IndicationFlags → IndicationFlags) (k : Track) (i : Fin 64) :
    Retires k.it (k.closeWith hwm m i).it := by
  unfold Track.closeWith
  split
  case h_1 a run heq => exact close (by rw [heq]; rfl)
  · exact refl _
  · exact refl _

theorem foldl {g : Track → Fin 64 → Track} (hg : ∀ k i, Retires k.it (g k i).it) :
    ∀ (l : List (Fin 64)) (k : Track), Retires k.it (l.foldl g k).it
  | [], k => refl k.it
  | i :: l, k => (hg k i).trans (foldl hg l (g k i))

theorem closeAll (m : IndicationFlags → IndicationFlags) (k : Track) : Retires k.it (k.closeAll hwm m).it :=
  foldl (closeWith m) allEntries k

end Track

/-! What a retirement keeps. -/

/-- Every OPEN indication was there before, at its entry. -/
theorem opened {t u : It} (h : Retires t u) {i : Fin 64} {a : Indication} {n : Nat} (hu : u.table[i] = .opened a n) :
    t.table[i] = .opened a n := by
  rcases h i with hsame | hfree | ⟨b, m, hheld, -⟩
  · exact hsame.symm.trans hu
  · exact nomatch hfree.symm.trans hu
  · exact nomatch hheld.symm.trans hu

theorem side?_le {t u : It} (h : Retires t u) {i : Fin 64} {x : Side} (hu : (u.table[i]).side? = some x) :
    (t.table[i]).side? = some x := by
  rcases h i with hsame | hfree | ⟨b, m, hheld, hside⟩
  · rw [← hsame]; exact hu
  · rw [hfree] at hu; cases hu
  · rw [hheld] at hu
    exact hside.trans hu

theorem usedBy_le {t u : It} (h : Retires t u) (x : Side) : u.usedBy x ≤ t.usedBy x :=
  It.usedBy_mono fun _ hu => h.side?_le hu

theorem keysUnique {t u : It} (h : Retires t u) (ht : keysUnique t) : keysUnique u :=
  fun i j a b m n hi hj => ht i j a b m n (h.opened hi) (h.opened hj)

end Retires

/-! ## A gate -/

/-- What a gate of side `c.side`, shot `e.shot` and index `g` does to the table (R108 to R112). -/
inductive Gated (t : It) (c : EvalContext) (e : OutcomeEntry) (g : Nat) : It → Prop
  | same : Gated t c e g t
  | counted {i : Fin 64} {a : Indication} {run : Nat} (found : t.findOpen c.side e.shot g = some (i, a, run))
    (f : IndicationFlags) : Gated t c e g (t.setEntry i (.opened { a with flags := f } (run + 1)))
  | extended {i : Fin 64} {a : Indication} {run : Nat} (found : t.findOpen c.side e.shot g = some (i, a, run))
    (m : Measurement) (z : ZoneOutcome) : Gated t c e g (t.setEntry i (.opened (a.extend c.step m z) 0))
  | started {i : Fin 64} (none : t.findOpen c.side e.shot g = none) (claim : t.claim c.side = some i)
    (m : Measurement) (z : ZoneOutcome) :
    Gated t c e g (t.setEntry i (.opened (.start c.side e g c.generation c.step m z) 0))

theorem It.applyGate_cases (t : It) (c : EvalContext) (e : OutcomeEntry) (g : Nat) :
    Gated t c e g (t.applyGate c e g).1 := by
  unfold It.applyGate
  split
  · exact .same
  · split
    · exact .counted ‹_› _
    · exact .same
  · split
    · rename_i i a run hfound
      exact .counted hfound a.flags
    · exact .same
  · split
    · exact .extended ‹_› _ _
    · split
      · exact .started ‹_› ‹_› _ _
      · exact .same

/-- An OPEN indication that keeps its key keeps the keys unique. -/
theorem keysUnique_setEntry {t : It} (ht : keysUnique t) {i : Fin 64} {a b : Indication} {m n : Nat}
    (hi : t.table[i] = .opened a m) (hside : b.side = a.side) (hshot : b.shot = a.shot) (hgate : b.gate = a.gate) :
    keysUnique (t.setEntry i (.opened b n)) := by
  have hfrom : ∀ (j : Fin 64) (d : Indication) (l : Nat), (t.setEntry i (.opened b n)).table[j] = .opened d l →
      ∃ d' l', t.table[j] = .opened d' l' ∧ d.side = d'.side ∧ d.shot = d'.shot ∧ d.gate = d'.gate := by
    intro j d l hj
    rw [It.setEntry_get] at hj
    split at hj
    case isTrue heq =>
      obtain ⟨rfl, -⟩ := TableEntry.opened.inj hj
      exact ⟨a, m, heq ▸ hi, hside, hshot, hgate⟩
    case isFalse => exact ⟨d, l, hj, rfl, rfl, rfl⟩
  intro j k d e l o hj hk hs hsh hg
  obtain ⟨d', l', hd, ds, dsh, dg⟩ := hfrom j d l hj
  obtain ⟨e', o', he, es, esh, eg⟩ := hfrom k e o hk
  exact ht j k d' e' l' o' hd he (by rw [← ds, hs, es]) (by rw [← dsh, hsh, esh]) (by rw [← dg, hg, eg])

/-- R106, R110: a claimed entry opens the indication of a key that was not open. -/
theorem keysUnique_start {t : It} (ht : keysUnique t) {c : EvalContext} {e : OutcomeEntry} {g : Nat} {i : Fin 64}
    (hnone : t.findOpen c.side e.shot g = none) (m : Measurement) (z : ZoneOutcome) :
    keysUnique (t.setEntry i (.opened (.start c.side e g c.generation c.step m z) 0)) := by
  have hfree := It.findOpen_none.1 hnone
  intro j k a b l n hj hk hs hsh hg
  rw [It.setEntry_get] at hj hk
  split at hj <;> split at hk
  case isTrue.isTrue hij hik => exact hij.trans hik.symm
  case isTrue.isFalse =>
    obtain ⟨rfl, -⟩ := TableEntry.opened.inj hj
    exact absurd ⟨hs.symm, hsh.symm, hg.symm⟩ (hfree k b n hk)
  case isFalse.isTrue =>
    obtain ⟨rfl, -⟩ := TableEntry.opened.inj hk
    exact absurd ⟨hs, hsh, hg⟩ (hfree j a l hj)
  case isFalse.isFalse => exact ht j k a b l n hj hk hs hsh hg

theorem Gated.keysUnique {t u : It} {c : EvalContext} {e : OutcomeEntry} {g : Nat} (h : Gated t c e g u)
    (ht : keysUnique t) : keysUnique u := by
  cases h with
  | same => exact ht
  | counted found f => exact keysUnique_setEntry ht (It.findOpen_some found).1 rfl rfl rfl
  | extended found m z => exact keysUnique_setEntry ht (It.findOpen_some found).1 rfl rfl rfl
  | started none claim m z => exact keysUnique_start ht none m z

/-- What holds of the table before the gates of a record and survives each gate holds after them. -/
theorem It.applyEntries_keeps {Q : It → Prop} {c : EvalContext} (hgate : ∀ t e g, Q t → Q (t.applyGate c e g).1)
    (l : ShotList) (es : List OutcomeEntry) {p : It × Mask} (h : Q p.1) : Q (It.applyEntries c l es p).1 := by
  rw [It.applyEntries_eq]
  generalize es.flatMap (fun e => (l.detectGates e.shot).map (fun g => (e, g))) = qs
  induction qs generalizing p with
  | nil => exact h
  | cons q qs ih => exact ih (hgate p.1 q.1 q.2 h)

theorem Track.evaluate_keysUnique (hwm : Int) (c : EvalContext) (l : ShotList) (es : List OutcomeEntry) {k : Track}
    (h : keysUnique k.it) : keysUnique (k.evaluate hwm c l es).1.it := by
  unfold Track.evaluate
  dsimp only
  exact (Retires.foldl (Retires.closeTest c.side c.step) allEntries _).keysUnique
    (It.applyEntries_keeps (fun t e g => (t.applyGate_cases c e g).keysUnique) l es h)

/-! ## The whole state -/

/-- R105, in the whole state. -/
def keysLaw (s : State) : Prop := keysUnique s.it

theorem keysLaw_of_table {s t : State} (hs : keysLaw s) (h : t.it.table = s.it.table) : keysLaw t := by
  unfold keysLaw keysUnique at *
  rw [h]
  exact hs

theorem keysLaw_setTrack {s : State} {k : Track} (hs : keysLaw s) (h : Retires s.it k.it) : keysLaw (s.setTrack k) :=
  h.keysUnique hs

theorem keysLaw_setIt {s : State} {t : It} (hs : keysLaw s) (h : Retires s.it t) : keysLaw (s.setIt t) :=
  h.keysUnique hs

theorem keysLaw_free {s : State} (h : ∀ i : Fin 64, s.it.table[i] = .free) : keysLaw s := keysUnique_free h

theorem stepEvaluation_keysLaw {s : State} (x : Side) (hs : keysLaw s) : keysLaw (stepEvaluation x s) := by
  unfold stepEvaluation
  split
  · exact hs
  · rename_i r rest hr
    have hkeys := Track.evaluate_keysUnique s.du.hwm ⟨x, r.step, s.ps.generation, s.nextVerdict x r.step⟩ (s.ps.active.get x)
      r.entries (k := s.track) hs
    dsimp only
    generalize s.track.evaluate s.du.hwm ⟨x, r.step, s.ps.generation, s.nextVerdict x r.step⟩ (s.ps.active.get x)
      r.entries = k at hkeys ⊢
    exact hkeys

theorem commitDu_keysLaw {s : State} (latch : MotionCauses) (d : Du) (hs : keysLaw s) : keysLaw (commitDu latch d s) := by
  obtain ⟨l, heq, -⟩ := commitDu_frame latch d s
  rw [heq]
  exact hs

theorem keysLaw_innerKept : InnerKept keysLaw where
  runstate _ _ hs := hs
  swap {s} hs := by
    obtain ⟨b, c, l, heq, -⟩ := swapPlans_frame s
    rw [heq]
    exact hs
  record x ch hs := by
    unfold recordTakesEffect
    split <;> exact hs
  gaps x hs := by
    obtain ⟨g, l, heq, -⟩ := drainGaps_frame x _
    rw [heq]
    exact hs
  free _ hs := hs
  run _ _ _ _ hs := hs
  release hs := keysLaw_setTrack hs (Retires.releaseAll _)
  closing m hs := keysLaw_setTrack hs (Retires.closeAll m _)
  sealing hs := keysLaw_setIt hs (Retires.of_seals (It.sealForced_seals _))
  side _ _ _ hs := hs
  coupling _ _ _ hs := hs
  step x hs := stepEvaluation_keysLaw x hs
  engine _ _ hs := hs

theorem keysLaw_sideKept : SideKept keysLaw where
  modify _ _ _ hs := hs
  raise x e hs := keysLaw_innerKept.raiseSide x e hs
  abort x hs := keysLaw_innerKept.abortList x hs
  waits _ hs := hs

theorem setChannel_keysLaw {s : State} (x : Side) (ch : Channel) (r : ChannelRecord) (hs : keysLaw s) :
    keysLaw (setChannel x ch r s) := by
  have hset := keysLaw_sideKept.modify x (fun sc => { sc with pendingRecords := sc.pendingRecords.set ch (some r) })
    (fun _ => rfl) hs
  unfold setChannel
  dsimp only
  split
  · exact keysLaw_innerKept.record x ch hset
  · exact hset

theorem keysLaw_of_effect {c : Instr} {s t : State} (h : Effect c s t) (hs : keysLaw s) : keysLaw t := by
  cases h with
  | setOdometry => exact commitDu_keysLaw _ _ hs
  | presetPosition => exact commitDu_keysLaw _ _ hs
  | setSide => exact keysLaw_sideKept.setSide _ _ _ _ hs
  | @armSide _ x => exact keysLaw_sideKept.supplyFaultCheck _ (keysLaw_sideKept.enterArming x hs)
  | disarmSide => exact keysLaw_sideKept.disarmSide _ hs
  | clearSideFault => exact keysLaw_sideKept.clearSideFault _ hs
  | setChannel => exact setChannel_keysLaw _ _ _ hs
  | swapNow => exact keysLaw_innerKept.swap hs
  | startRun =>
    obtain ⟨c, l, r, heq⟩ := startRun_frame s
    rw [heq]
    exact hs
  | stopRun => exact keysLaw_innerKept.beginStop _ hs
  | _ => exact hs

theorem keysLaw_of_taking {c : Instr} {s t : State} (h : Taking c s t) (hs : keysLaw s) : keysLaw t := by
  obtain ⟨a, -, effect⟩ := h
  have hbody := keysLaw_of_effect effect (show keysLaw (dropFrame s) from hs)
  exact hbody

theorem keysLaw_of_sending {s t : State} (h : Sending s t) (hs : keysLaw s) : keysLaw t := by
  cases h with
  | nothing | frame | motion => exact hs
  | @flaw l => exact keysLaw_innerKept.drainEndTest (keysLaw_innerKept.release (s := s.setLi l) hs)

theorem runReset_free (s : State) (i : Fin 64) : (runReset s).it.table[i] = .free := by
  obtain ⟨v, c, hrecords, -⟩ := recordsTakeEffect_frame (runCleared s)
  unfold runReset
  rw [hrecords]
  exact freeTable_get i

theorem resetRunActs_keysLaw (s : State) : keysLaw (resetRunActs s) := by
  have hreset := keysLaw_free (runReset_free s)
  rw [resetRunActs_eq]
  rcases takeOldest_cases (runReset s) with h | ⟨c, h⟩
  · rw [h]; exact hreset
  · exact keysLaw_of_taking h hreset

theorem trackerBoundary_keysLaw {s : State} (z : Int) (hs : keysLaw s) : keysLaw (trackerBoundary z s) := by
  unfold trackerBoundary
  refine keysLaw_innerKept.release (keysLaw_setIt hs ?_)
  exact Retires.of_seals (It.sealDue_seals _ _)

theorem forwardCount_keysLaw {s : State} (first : Side) (hs : keysLaw s) : keysLaw (forwardCount first s) := by
  unfold forwardCount
  dsimp only
  split
  · exact commitDu_keysLaw _ _ hs
  · split
    · split
      · exact keysLaw_innerKept.fireBoundary (fun _ _ h => h) (fun _ z h => trackerBoundary_keysLaw z h) first _
          (commitDu_keysLaw _ _ hs)
      · exact commitDu_keysLaw _ _ hs
    · exact keysLaw_innerKept.beginStop _ (commitDu_keysLaw _ _ hs)

theorem keysLaw_of_event {c : Instr} {s t : State} (h : Event c s t) (hs : keysLaw s) : keysLaw t := by
  cases h with
  | forwardCount => exact forwardCount_keysLaw _ hs
  | reverseCount =>
    unfold reverseCount
    dsimp only
    split
    · exact commitDu_keysLaw _ _ hs
    · split <;> exact commitDu_keysLaw _ _ hs
  | illegalTransition => exact commitDu_keysLaw _ _ hs
  | standstillTimerExpiry =>
    unfold standstillExpiry
    split
    · exact hs
    · exact commitDu_keysLaw _ _ hs
  | debounceExpiry => exact keysLaw_sideKept.debounceExpiry _ hs
  | hvrdyArrival => exact keysLaw_sideKept.hvrdyArrival _ hs
  | hvfltAsserted => exact keysLaw_sideKept.hvfltChange _ _ hs
  | rampTimerExpiry => exact keysLaw_sideKept.rampExpiry _ hs
  | planSwapAtBoundary => exact keysLaw_innerKept.planSwapAtBoundary hs
  | channelRecordTakesEffect =>
    split
    · exact keysLaw_innerKept.record _ _ hs
    · exact hs
  | shotCompletion =>
    exact completeShot_keeps (P := keysLaw) (fun _ _ h => h) (fun _ y ch l h => keysLaw_sideKept.loadFault y ch l h)
      (fun _ y ch good h => keysLaw_innerKept.couplingResult y ch good fun _ => h)
      (fun _ y due g h => keysLaw_innerKept.reachShots y due h) _ _ _ hs
  | stepEvaluation => exact keysLaw_innerKept.drainTest (stepEvaluation_keysLaw _ hs)
  | clusterRelease => exact keysLaw_innerKept.drainEndTest (keysLaw_setTrack hs (Retires.releaseFront _))
  | drainReleasePhase => exact keysLaw_innerKept.drainTest hs
  | drainEnd => exact keysLaw_innerKept.drainEndTest hs
  | idleTimerExpiry =>
    unfold idleExpiry
    split <;> exact hs
  | holdInRelease => exact keysLaw_of_sending (transmissionStart_cases _) hs
  | transmissionStart => exact keysLaw_of_sending (transmissionStart_cases s) hs
  | transmissionEnd =>
    unfold transmissionEnd
    split <;> exact hs
  | resetRunActs => exact actAwaited_keeps (P := keysLaw) hs (resetRunActs_keysLaw s)
  | resetFullActs => exact actAwaited_keeps (P := keysLaw) hs (keysLaw_free freeTable_get)
  | _ => exact hs

/-- R105: every step keeps the keys of the OPEN indications unique. -/
theorem step_keeps_keysUnique {s t : State} (hs : keysUnique s.it) (h : step s = .next t) : keysUnique t.it :=
  step_keeps (P := keysLaw) (fun _ _ _ hu => hu) (fun _ _ => keysLaw_free freeTable_get)
    (fun _ _ _ _ hu ht => keysLaw_of_taking ht hu) (fun _ _ _ _ hu he => keysLaw_of_event he hu) hs h

end Sys2Proof.Machine

/-!
The law of the clusters (R128) under a merge (R132), and under the formation of a cluster (R129 to R132).
-/
namespace Sys2Proof.Machine

/-! ## The member counts of candidates -/

theorem countSum_cons (q : Fin 64 × Cluster) (cs : List (Fin 64 × Cluster)) :
    countSum (q :: cs) = q.2.count + countSum cs := by
  unfold countSum
  rw [List.map_cons, List.sum_cons]

theorem countSum_split (before after : List (Fin 64 × Cluster)) (q : Fin 64 × Cluster) :
    countSum (before ++ q :: after) = countSum before + q.2.count + countSum after := by
  unfold countSum
  rw [List.map_append, List.map_cons, List.sum_append, List.sum_cons, Nat.add_assoc]

/-- A number up to the sum falls to one candidate. -/
theorem exists_block {l : Nat} : ∀ {cs : List (Fin 64 × Cluster)} {base : Nat}, base < l → l ≤ base + countSum cs →
    ∃ before q after, cs = before ++ q :: after ∧ base + countSum before < l ∧ l ≤ base + countSum before + q.2.count
  | [], base, h1, h2 => absurd h2 (by simp [countSum]; omega)
  | q :: cs, base, h1, h2 => by
    by_cases hq : l ≤ base + q.2.count
    · exact ⟨[], q, cs, rfl, h1, hq⟩
    · rw [countSum_cons] at h2
      obtain ⟨before, q', after, rfl, h3, h4⟩ := exists_block (l := l) (base := base + q.2.count) (cs := cs) (by omega)
        (by omega)
      refine ⟨q :: before, q', after, rfl, ?_, ?_⟩ <;> rw [countSum_cons q before] <;> omega

/-- It falls to one candidate only. -/
theorem block_unique {l : Nat} {q q' : Fin 64 × Cluster} {after after' : List (Fin 64 × Cluster)} :
    ∀ {before before' : List (Fin 64 × Cluster)} {base : Nat}, before ++ q :: after = before' ++ q' :: after' →
      base + countSum before < l → l ≤ base + countSum before + q.2.count →
      base + countSum before' < l → l ≤ base + countSum before' + q'.2.count → before = before' ∧ q = q'
  | [], [], _, h, _, _, _, _ => ⟨rfl, (List.cons.inj h).1⟩
  | [], p :: before', base, h, _, h2, h3, _ => by
    rw [countSum_cons, ← (List.cons.inj h).1] at h3
    simp only [countSum, List.map_nil, List.sum_nil] at h2
    omega
  | p :: before, [], base, h, h1, _, _, h4 => by
    rw [countSum_cons, (List.cons.inj h).1] at h1
    simp only [countSum, List.map_nil, List.sum_nil] at h4
    omega
  | p :: before, p' :: before', base, h, h1, h2, h3, h4 => by
    obtain ⟨rfl, hrest⟩ := List.cons.inj h
    rw [countSum_cons p before] at h1 h2
    rw [countSum_cons p before'] at h3 h4
    obtain ⟨rfl, rfl⟩ := block_unique (l := l) (base := base + p.2.count) (before := before) (before' := before')
      hrest (by omega) (by omega) (by omega) (by omega)
    exact ⟨rfl, rfl⟩

/-! ## The table after a merge -/

/-- The memberships after a merge of the candidates `cs` under `h`, with the joiner `i` at entry `j`. -/
inductive Merged (t : It) (j : Fin 64) (i : Indication) (h : Fin 64) (cs : List (Fin 64 × Cluster)) (e : Fin 64)
    (b : Indication) : Membership → Prop
  | joiner (entry : e = j) (joins : b = i) : Merged t j i h cs e b ⟨h, countSum cs + 1, none⟩
  | outside {m : Membership} (old : t.table[e] = .held b m) (other : ∀ q ∈ cs, m.head ≠ q.1) : Merged t j i h cs e b m
  | member {m : Membership} {before after : List (Fin 64 × Cluster)} {d : Cluster} (old : t.table[e] = .held b m)
    (block : cs = before ++ (m.head, d) :: after) : Merged t j i h cs e b ⟨h, countSum before + m.order,
      if e = h then some ⟨releaseMax cs (i.last + t.settings.window), countSum cs + 1, none⟩ else none⟩

/-- The candidates of a merge: heads in ascending order, of the joiner's side and generation, with room for all. -/
structure Mergeable (t : It) (j : Fin 64) (i : Indication) (cs : List (Fin 64 × Cluster)) : Prop where
  law : clusterLaw t
  joiner : ∀ b n, t.table[j] ≠ .held b n
  ascending : cs.Pairwise (fun p q => p.1 < q.1)
  heads : ∀ q ∈ cs, ∃ (a : Indication) (o : Nat), t.table[q.1] = .held a ⟨q.1, o, some q.2⟩ ∧ a.side = i.side ∧
    a.generation = i.generation
  room : countSum cs + 1 ≤ 8

section Merge
variable {t : It} {j h : Fin 64} {i : Indication} {c : Cluster} {rest : List (Fin 64 × Cluster)}

theorem Mergeable.ne (hm : Mergeable t j i ((h, c) :: rest)) : j ≠ h := by
  obtain ⟨a, o, ha, -⟩ := hm.heads (h, c) List.mem_cons_self
  exact fun heq => hm.joiner a _ ((t.table_congr heq).trans ha)

/-- The member of a candidate, and its place in the candidate. -/
theorem Mergeable.member (hm : Mergeable t j i ((h, c) :: rest)) {e : Fin 64} {b : Indication} {m : Membership}
    {before after : List (Fin 64 × Cluster)} {d : Cluster} (he : t.table[e] = .held b m)
    (hcs : (h, c) :: rest = before ++ (m.head, d) :: after) :
    b.side = i.side ∧ b.generation = i.generation ∧ 1 ≤ m.order ∧ m.order ≤ d.count ∧
      countSum before + d.count ≤ countSum ((h, c) :: rest) := by
  obtain ⟨a, o, ha, hside, hgeneration⟩ := hm.heads (m.head, d) (by rw [hcs]; simp)
  obtain ⟨hs, hg, hone, hle⟩ := hm.law.member ha he rfl
  refine ⟨hs.symm.trans hside, hg.symm.trans hgeneration, hone, hle, ?_⟩
  rw [hcs, countSum_split]
  exact Nat.le_trans (Nat.le_refl (countSum before + d.count)) (Nat.le_add_right _ _)

theorem It.merge_held (hm : Mergeable t j i ((h, c) :: rest)) (e : Fin 64) (b : Indication) (n : Membership) :
    (t.merge j i h ((h, c) :: rest)).table[e] = .held b n ↔ Merged t j i h ((h, c) :: rest) e b n := by
  obtain ⟨a, o, ha, -⟩ := hm.heads (h, c) List.mem_cons_self
  have hjh := hm.ne
  have hget := It.merge_get (i := i) rfl hm.ascending ha hjh e
  have hjoiner : e = j → (t.merge j i h ((h, c) :: rest)).table[e] = .held i ⟨h, countSum ((h, c) :: rest) + 1, none⟩ :=
    fun hej => by rw [hget, if_neg (fun heh => hjh (hej.symm.trans heh)), if_pos hej]
  have houtside : ∀ {m : Membership}, t.table[e] = .held b m → (∀ q ∈ (h, c) :: rest, m.head ≠ q.1) →
      (t.merge j i h ((h, c) :: rest)).table[e] = .held b m := fun {m} he hother => by
    have heh : e ≠ h := fun heq => by
      obtain ⟨-, rfl⟩ := TableEntry.held.inj (ha.symm.trans ((t.table_congr heq).symm.trans he))
      exact hother (h, c) List.mem_cons_self rfl
    have hej : e ≠ j := fun heq => hm.joiner b m ((t.table_congr heq).symm.trans he)
    rw [hget, if_neg heh, if_neg hej, he]
    dsimp only
    rw [regrouped_of_notMem hother]
  constructor
  · intro he
    by_cases hej : e = j
    · obtain ⟨rfl, rfl⟩ := TableEntry.held.inj ((hjoiner hej).symm.trans he)
      exact .joiner hej rfl
    · cases hold : t.table[e] with
      | held b' m =>
        by_cases hin : ∃ d, (m.head, d) ∈ (h, c) :: rest
        · obtain ⟨d, hd⟩ := hin
          obtain ⟨before, after, hcs⟩ := List.append_of_mem hd
          obtain ⟨rfl, rfl⟩ := TableEntry.held.inj
            ((It.merge_member hm.ascending ha hjh hold hej hcs).symm.trans he)
          exact .member hold hcs
        · have hother : ∀ q ∈ (h, c) :: rest, m.head ≠ q.1 := fun q hq heq => hin ⟨q.2, by rw [heq]; exact hq⟩
          have heh : e ≠ h := fun heq => by
            obtain ⟨-, rfl⟩ := TableEntry.held.inj (ha.symm.trans ((t.table_congr heq).symm.trans hold))
            exact hother (h, c) List.mem_cons_self rfl
          rw [hget, if_neg heh, if_neg hej, hold] at he
          dsimp only at he
          rw [regrouped_of_notMem hother] at he
          obtain ⟨rfl, rfl⟩ := TableEntry.held.inj he
          exact .outside hold hother
      | free | opened =>
        have heh : e ≠ h := fun heq => by
          have := (t.table_congr heq).symm.trans hold
          rw [ha] at this
          cases this
        rw [hget, if_neg heh, if_neg hej, hold] at he
        cases he
  · intro hmerged
    cases hmerged with
    | joiner hej hb => rw [hjoiner hej, hb]
    | outside hold hother => exact houtside hold hother
    | member hold hcs =>
      exact It.merge_member hm.ascending ha hjh hold
        (fun heq => hm.joiner b _ ((t.table_congr heq).symm.trans hold)) hcs

/-- R132: the members of the candidates and the joiner are one cluster, numbered on through the candidates. -/
theorem It.merge_clusterLaw (hm : Mergeable t j i ((h, c) :: rest)) :
    clusterLaw (t.merge j i h ((h, c) :: rest)) := by
  have hheld := It.merge_held hm
  obtain ⟨a, o, ha, hside, hgeneration⟩ := hm.heads (h, c) List.mem_cons_self
  have hroom := hm.room
  have hmem : (h, c) ∈ (h, c) :: rest := List.mem_cons_self
  have hhead : (t.merge j i h ((h, c) :: rest)).table[h] = .held a ⟨h, o,
      some ⟨releaseMax ((h, c) :: rest) (i.last + t.settings.window), countSum ((h, c) :: rest) + 1, none⟩⟩ := by
    have hself := (hheld h a _).2 (.member (before := []) (after := rest) (d := c) ha rfl)
    rw [if_pos rfl, show countSum [] = 0 from rfl, Nat.zero_add] at hself
    exact hself
  obtain ⟨hmember, hunique, hfull⟩ := id hm.law
  refine ⟨fun e b n he => ?_, fun e e' b d n n' he he' hhead' horder => ?_, fun g b o' d hg l hl1 hl2 => ?_⟩
  · cases (hheld e b n).1 he with
    | joiner hej hb =>
      refine ⟨⟨nofun, fun heq => absurd (heq.trans hej).symm hm.ne⟩, a, o, _, hhead, hb ▸ hside, hb ▸ hgeneration, ?_,
        Nat.le_refl _, hroom⟩
      exact Nat.le_add_left 1 _
    | outside hold hother =>
      obtain ⟨hiff, b', o', d, hb', hrest⟩ := hmember e b n hold
      exact ⟨hiff, b', o', d, (hheld _ _ _).2 (.outside hb' hother), hrest⟩
    | member hold hcs =>
      obtain ⟨hs, hg, hone, hle, hsum⟩ := hm.member hold hcs
      refine ⟨?_, a, o, _, hhead, hside.trans hs.symm, hgeneration.trans hg.symm, ?_, ?_, hroom⟩
      · split
        case isTrue heq => exact ⟨fun _ => heq.symm, fun _ => rfl⟩
        case isFalse hne => exact ⟨nofun, fun heq => absurd heq.symm hne⟩
      · dsimp only; omega
      · dsimp only; omega
  · cases (hheld e b n).1 he with
    | joiner hej hb =>
      cases (hheld e' d n').1 he' with
      | joiner hej' hb' => exact hej.trans hej'.symm
      | outside hold' hother' => exact absurd hhead'.symm (hother' _ hmem)
      | member hold' hcs' =>
        obtain ⟨-, -, -, hle, hsum⟩ := hm.member hold' hcs'
        dsimp only at horder
        omega
    | outside hold hother =>
      cases (hheld e' d n').1 he' with
      | joiner hej' hb' => exact absurd hhead' (hother _ hmem)
      | outside hold' hother' => exact hunique e e' b d _ _ hold hold' hhead' horder
      | member hold' hcs' => exact absurd hhead' (hother _ hmem)
    | member hold hcs =>
      rename_i m before after dm
      obtain ⟨-, -, hone, hle, hsum⟩ := hm.member hold hcs
      cases (hheld e' d n').1 he' with
      | joiner hej' hb' =>
        dsimp only at horder
        omega
      | outside hold' hother' => exact absurd hhead'.symm (hother' _ hmem)
      | member hold' hcs' =>
        rename_i m' before' after' dm'
        obtain ⟨-, -, hone', hle', -⟩ := hm.member hold' hcs'
        dsimp only at horder
        have hblock : countSum before + m.order ≤ countSum before + dm.count ∧
            countSum before + m.order ≤ countSum before' + dm'.count := by omega
        obtain ⟨rfl, hq⟩ := block_unique (l := countSum before + m.order) (base := 0) (before := before)
          (before' := before') (hcs.symm.trans hcs') (by omega) (by rw [Nat.zero_add]; exact hblock.1) (by omega)
          (by rw [Nat.zero_add]; exact hblock.2)
        obtain ⟨hheads, -⟩ := Prod.mk.inj hq
        exact hunique e e' b d _ _ hold hold' hheads (Nat.add_left_cancel horder)
  · have hback : ∀ q ∈ (h, c) :: rest, ∀ l', 1 ≤ l' → l' ≤ q.2.count → ∃ (x : Fin 64) (b' : Indication) (m : Membership),
        t.table[x] = .held b' m ∧ m.head = q.1 ∧ m.order = l' := fun q hq l' h1 h2 => by
      obtain ⟨a', o'', ha', -⟩ := hm.heads q hq
      exact hfull q.1 a' o'' q.2 ha' l' h1 h2
    generalize hn : (⟨g, o', some d⟩ : Membership) = n at hg
    cases (hheld g b n).1 hg with
    | joiner hej hb => cases hn
    | outside hold hother =>
      subst hn
      obtain ⟨x, b', m, hx, hhx, hox⟩ := hfull g b o' d hold l hl1 hl2
      exact ⟨x, b', m, (hheld _ _ _).2 (.outside hx (by rw [hhx]; exact hother)), hhx, hox⟩
    | member hold hcs =>
      obtain ⟨rfl, -, hcluster⟩ := Membership.mk.inj hn
      rw [if_pos rfl] at hcluster
      have hcount : d.count = countSum ((g, c) :: rest) + 1 := by rw [Option.some.inj hcluster]
      by_cases hlast : l = countSum ((g, c) :: rest) + 1
      · exact ⟨j, i, _, (hheld _ _ _).2 (.joiner rfl rfl), rfl, hlast.symm⟩
      · obtain ⟨before, q, after, hblock, hlow, hhigh⟩ := exists_block (base := 0) (cs := (g, c) :: rest) (l := l)
          (by omega) (by omega)
        obtain ⟨x, b', m, hx, hhx, hox⟩ := hback q (by rw [hblock]; simp) (l - countSum before) (by omega) (by omega)
        refine ⟨x, b', _, (hheld _ _ _).2 (.member (before := before) (after := after) (d := q.2) hx ?_), rfl, ?_⟩
        · rw [hhx]; exact hblock
        · dsimp only; omega

end Merge
end Sys2Proof.Machine

/-!
The law of the HELD indications and of the flaw queue (R128 to R135, R140): release, formation and closure keep it.
-/
namespace Sys2Proof.Machine

/-- Under the settings `g`, the clusters and the HELD indications meet their laws, and the FLAW reports that have joined
the flaw queue `q` meet theirs. -/
structure Track.Formed (g : Tracking) (q : List (Pending FlawReport)) (k : Track) : Prop where
  settings : k.it.settings = g
  cluster : clusterLaw k.it
  closed : ∀ (i : Fin 64) (a : Indication) (m : Membership), k.it.table[i] = .held a m → a.closedLaw g
  queue : ∀ p ∈ k.li.flawQueue, p ∈ q ∨ p.report.law g

/-- What an OPEN indication must meet so that its closure leaves a law-abiding table (R114). -/
def Indication.closable (g : Tracking) (a : Indication) : Prop :=
  1 ≤ a.hits ∧ (a.hits : Int) ≤ a.last - a.first + 1 ∧ a.last - a.first + 1 < (g.maxLength : Int) + 1

/-! ## The FLAW report -/

theorem It.mem_membersInOrder {t : It} {h : Fin 64} {n : Nat} {b : Indication} (hb : b ∈ t.membersInOrder h n) :
    ∃ (e : Fin 64) (m : Membership), t.table[e] = .held b m ∧ m.head = h := by
  obtain ⟨k, -, hk⟩ := List.mem_filterMap.1 hb
  obtain ⟨e, -, he⟩ := List.exists_of_findSome?_eq_some hk
  split at he
  case h_1 a m heq =>
    split at he
    case isTrue hm =>
      obtain rfl := Option.some.inj he
      simp only [Bool.and_eq_true, decide_eq_true_eq] at hm
      exact ⟨e, m, heq, hm.1⟩
    case isFalse => cases he
  all_goals cases he

/-- R140: the report of a cluster of closed indications. -/
theorem It.flawReport_law {t : It} {g : Tracking} (hl : clusterLaw t)
    (hclosed : ∀ (i : Fin 64) (a : Indication) (m : Membership), t.table[i] = .held a m → a.closedLaw g) (hwm : Int)
    {h : Fin 64} {a : Indication} {o : Nat} {c : Cluster} (hh : t.table[h] = .held a ⟨h, o, some c⟩) :
    (t.flawReport hwm h a c).law g := by
  obtain ⟨hlength, -⟩ := It.membersInOrder_spec hl hh
  obtain ⟨hone, hle, hmax⟩ := hl.count hh
  refine ⟨?_, ?_, fun b hb => ?_⟩
  · exact hlength.symm ▸ Nat.le_trans hone hle
  · exact hlength.symm ▸ hmax
  · obtain ⟨e, m, he, hm⟩ := It.mem_membersInOrder hb
    obtain ⟨hside, hgeneration, -⟩ := hl.member hh he hm
    exact ⟨hside.symm, hgeneration.symm, hclosed e b m he⟩

namespace Track.Formed
variable {g : Tracking} {q : List (Pending FlawReport)} {k : Track} {hwm : Int}

/-! ## Release -/

theorem release (hk : k.Formed g q) {h : Fin 64} {a : Indication} {o : Nat} {c : Cluster}
    (hh : k.it.table[h] = .held a ⟨h, o, some c⟩) : (k.release hwm h a c).Formed g q where
  settings := (It.mapTable_same k.it _).1.trans hk.settings
  cluster := Track.release_clusterLaw hwm hk.cluster hh
  closed i b m hi := hk.closed i b m ((Track.release_get hwm h a c k).1 hi).1
  queue p hp := by
    rw [Track.release_eq] at hp
    rcases List.mem_append.1 hp with hold | hnew
    · exact hk.queue p hold
    · obtain rfl := List.mem_singleton.1 hnew
      exact .inr (It.flawReport_law hk.cluster hk.closed hwm hh)

theorem releaseFront (hk : k.Formed g q) : (k.releaseFront hwm).Formed g q := by
  unfold Track.releaseFront
  split
  · exact hk
  case h_2 h a c hf =>
    obtain ⟨⟨g', o, hh⟩, -⟩ := It.front_some_law hf
    obtain rfl := hk.cluster.own hh
    split
    · exact hk.release hh
    · exact hk

theorem releaseLoop : ∀ (n : Nat) {k : Track}, k.Formed g q → (k.releaseLoop hwm n).Formed g q
  | 0, _, hk => hk
  | n + 1, _, hk => releaseLoop n hk.releaseFront

theorem releaseAll (hk : k.Formed g q) : (k.releaseAll hwm).Formed g q := hk.releaseLoop 64

/-! ## Formation -/

/-- An It of the same settings in the place of the tracker. -/
theorem setIt (hk : k.Formed g q) {u : It} (hsame : SameButTable k.it u) (hcluster : clusterLaw u)
    (hclosed : ∀ (i : Fin 64) (a : Indication) (m : Membership), u.table[i] = .held a m → a.closedLaw g) :
    ({ k with it := u } : Track).Formed g q :=
  ⟨hsame.1.trans hk.settings, hcluster, hclosed, hk.queue⟩

section Entry
variable {j : Fin 64} {a : Indication} (hk : k.Formed g q) (hj : ∀ b n, k.it.table[j] ≠ .held b n) (ha : a.closedLaw g)
include hk hj ha

theorem startSealed (r : Int) (s : Option ReleaseMode) :
    ({ k with it := k.it.setEntry j (.held a ⟨j, 1, some ⟨r, 1, s⟩⟩) } : Track).Formed g q := by
  refine hk.setIt (It.setEntry_same _ _ _) (It.start_clusterLaw hk.cluster hj a r s) fun i b m hi => ?_
  rw [It.setEntry_get] at hi
  split at hi
  · obtain ⟨rfl, -⟩ := TableEntry.held.inj hi
    exact ha
  · exact hk.closed i b m hi

theorem startCluster : (k.startCluster hwm j a).Formed g q := by
  have hstart := hk.startSealed hj ha
  unfold Track.startCluster
  dsimp only
  split
  · exact (hstart _ _).releaseAll
  · exact hstart _ _

theorem join {h : Fin 64} {b : Indication} {o : Nat} {c : Cluster} (hh : k.it.table[h] = .held b ⟨h, o, some c⟩)
    (hside : b.side = a.side) (hgeneration : b.generation = a.generation) (hroom : c.count < 8) :
    ({ k with it := k.it.join j a h c } : Track).Formed g q := by
  refine hk.setIt ((It.setEntry_same _ _ _).trans (It.setCluster_same _ _ _))
    (It.join_clusterLaw hk.cluster hj hh hside hgeneration hroom) fun i d m hi => ?_
  have hjh : j ≠ h := fun heq => hj b _ (heq ▸ hh)
  rw [It.join_get hjh hh] at hi
  split at hi
  · obtain ⟨rfl, -⟩ := TableEntry.held.inj hi
    exact hk.closed h b _ hh
  · split at hi
    · obtain ⟨rfl, -⟩ := TableEntry.held.inj hi
      exact ha
    · exact hk.closed i d m hi

omit hj in
theorem merge {h : Fin 64} {c : Cluster} {rest : List (Fin 64 × Cluster)} (hm : Mergeable k.it j a ((h, c) :: rest)) :
    ({ k with it := k.it.merge j a h ((h, c) :: rest) } : Track).Formed g q := by
  refine hk.setIt (It.merge_same _ _ _ _ _) (It.merge_clusterLaw hm) fun i d m hi => ?_
  cases (It.merge_held hm i d m).1 hi with
  | joiner _ hd => exact hd ▸ ha
  | outside hold _ | member hold _ => exact hk.closed i d _ hold

/-- R129 to R132. -/
theorem form : (k.form hwm j a).Formed g q := by
  have hstart := hk.startCluster (hwm := hwm) hj ha
  have hcandidate : ∀ p ∈ k.it.candidates a, ∃ (b : Indication) (o : Nat),
      k.it.table[p.1] = .held b ⟨p.1, o, some p.2⟩ ∧ b.side = a.side ∧ b.generation = a.generation := by
    rintro ⟨h, c⟩ hp
    obtain ⟨g', b, o, hh, hside, hgeneration, -⟩ := It.mem_candidates_iff.1 hp
    obtain rfl := hk.cluster.own hh
    exact ⟨b, o, hh, hside, hgeneration⟩
  have hjoin : ∀ p ∈ k.it.candidates a, p.2.count < 8 →
      ({ k with it := k.it.join j a p.1 p.2 } : Track).Formed g q := fun p hp hroom => by
    obtain ⟨b, o, hh, hside, hgeneration⟩ := hcandidate p hp
    exact hk.join hj ha hh hside hgeneration hroom
  cases hcs : k.it.candidates a with
  | nil =>
    rw [Track.form_none hcs]
    exact hstart
  | cons p rest =>
    rw [hcs] at hcandidate hjoin
    by_cases hone : rest = []
    · subst hone
      rw [Track.form_one hcs]
      split
      case isTrue hroom => exact hjoin p List.mem_cons_self hroom
      case isFalse => exact hstart
    · rw [Track.form_several hcs hone]
      split
      case isTrue hroom =>
        exact hk.merge ha ⟨hk.cluster, hj, hcs ▸ It.candidates_ascending k.it a, hcandidate, hroom⟩
      case isFalse =>
        split
        case h_1 h c hfind =>
          have hroom := List.find?_some hfind
          exact hjoin (h, c) (List.mem_of_find?_eq_some hfind) (of_decide_eq_true hroom)
        case h_2 => exact hstart

end Entry

/-! ## Closure -/

/-- An entry that is not HELD changes, and is not HELD then. -/
theorem setUnheld (hk : k.Formed g q) {j : Fin 64} (hj : ∀ b n, k.it.table[j] ≠ .held b n) {e : TableEntry}
    (he : ∀ b n, e ≠ .held b n) : ({ k with it := k.it.setEntry j e } : Track).Formed g q := by
  have hheld : ∀ (i : Fin 64) (b : Indication) (m : Membership), (k.it.setEntry j e).table[i] = .held b m ↔
      k.it.table[i] = .held b m := fun i b m => by
    rw [It.setEntry_get]
    split
    case isTrue heq => exact ⟨fun hi => absurd hi (he b m), fun hi => absurd (heq ▸ hi) (hj b m)⟩
    case isFalse => exact Iff.rfl
  exact hk.setIt (It.setEntry_same _ _ _)
    (clusterLaw_of_members (fun i b m hi => ⟨m, (hheld i b m).2 hi, rfl, rfl, rfl⟩)
      (fun i b m hi => ⟨m, (hheld i b m).1 hi, rfl, rfl, rfl⟩) hk.cluster)
    fun i b m hi => hk.closed i b m ((hheld i b m).1 hi)

theorem close (hk : k.Formed g q) {j : Fin 64} (hj : ∀ b n, k.it.table[j] ≠ .held b n) {a : Indication}
    (ha : a.closable g) : (k.close hwm j a).Formed g q := by
  obtain ⟨hone, hextent, hlength⟩ := ha
  unfold Track.close
  rw [hk.settings]
  split
  · exact hk.setUnheld hj fun _ _ => nofun
  case isFalse hmin => exact hk.form hj ⟨hone, Nat.not_lt.1 hmin, hextent, hlength⟩

end Track.Formed
end Sys2Proof.Machine

/-!
The law of the whole Indication Table (R104, R106, R124, R128, R140) through the gates and the closing tests of a step
evaluation (R108 to R114).
-/
namespace Sys2Proof.Machine

/-- The tracker's law, of which `O` is what an OPEN indication and its miss run must meet. -/
structure Track.Lawful (g : Tracking) (q : List (Pending FlawReport)) (O : Indication → Nat → Prop) (k : Track) : Prop
    extends Track.Formed g q k where
  cap : capLaw k.it
  opened : ∀ (i : Fin 64) (a : Indication) (n : Nat), k.it.table[i] = .opened a n → O a n

/-! ## The entries in use -/

/-- A count that gains one element at most. -/
theorem countP_le_succ {α : Type} {p r : α → Bool} {i : α} : ∀ {l : List α}, l.Nodup →
    (∀ j ∈ l, j ≠ i → r j = true → p j = true) → l.countP r ≤ l.countP p + 1
  | [], _, _ => Nat.zero_le _
  | a :: l, hl, h => by
    obtain ⟨ha, hl⟩ := List.nodup_cons.1 hl
    rw [List.countP_cons, List.countP_cons]
    by_cases hai : a = i
    · have hrest : l.countP r ≤ l.countP p := List.countP_mono_left fun j hj =>
        h j (List.mem_cons_of_mem a hj) fun hji => ha (hai.trans hji.symm ▸ hj)
      split <;> omega
    · have hrest := countP_le_succ hl fun j hj => h j (List.mem_cons_of_mem a hj)
      have hhead := h a List.mem_cons_self hai
      split
      case isTrue hr =>
        rw [if_pos (hhead hr)]
        omega
      case isFalse => omega

/-- An entry used by the same side as before. -/
theorem It.usedBy_setEntry_le {t : It} {i : Fin 64} {e : TableEntry} {x : Side}
    (h : e.side? = some x → (t.table[i]).side? = some x) : (t.setEntry i e).usedBy x ≤ t.usedBy x := by
  refine It.usedBy_mono fun j hj => ?_
  rw [It.setEntry_get] at hj
  split at hj
  case isTrue heq => exact heq ▸ h hj
  case isFalse => exact hj

theorem It.usedBy_setEntry_le_succ (t : It) (i : Fin 64) (e : TableEntry) (x : Side) :
    (t.setEntry i e).usedBy x ≤ t.usedBy x + 1 := by
  unfold It.usedBy It.count
  refine countP_le_succ (i := i) (List.nodup_finRange 64) fun j _ hne hj => ?_
  rw [It.setEntry_get, if_neg hne] at hj
  exact hj

/-- R106: a claim takes an entry only below the cap. -/
theorem capLaw_claim {t : It} {x : Side} {i : Fin 64} (ht : capLaw t) (hclaim : t.claim x = some i) {a : Indication}
    (ha : a.side = x) (n : Nat) : capLaw (t.setEntry i (.opened a n)) := by
  obtain ⟨hbelow, -⟩ := It.claim_some.1 hclaim
  intro y
  show (t.setEntry i (.opened a n)).usedBy y ≤ t.settings.cap.get y
  by_cases hy : y = x
  · subst hy
    exact Nat.le_trans (It.usedBy_setEntry_le_succ t i _ _) hbelow
  · refine Nat.le_trans (It.usedBy_setEntry_le fun hside => ?_) (ht y)
    exact absurd ((Option.some.inj hside).symm.trans ha) hy

/-- The side that used the entry keeps it. -/
theorem capLaw_setOpened {t : It} {i : Fin 64} (ht : capLaw t) {a : Indication} (ha : (t.table[i]).side? = some a.side)
    (n : Nat) : capLaw (t.setEntry i (.opened a n)) := fun y =>
  Nat.le_trans (It.usedBy_setEntry_le fun hside => ha.trans hside) (ht y)

namespace Track.Lawful
variable {g : Tracking} {q : List (Pending FlawReport)} {O D : Indication → Nat → Prop} {k m : Track} {hwm : Int}

theorem mono (hk : k.Lawful g q O) (h : ∀ (i : Fin 64) (a : Indication) (n : Nat), k.it.table[i] = .opened a n → O a n → D a n) :
    k.Lawful g q D :=
  ⟨hk.toFormed, hk.cap, fun i a n hi => h i a n hi (hk.opened i a n hi)⟩

/-- The law rests on the table, the settings and the reports that wait. -/
theorem congr (hk : k.Lawful g q O) (htable : m.it.table = k.it.table) (hsettings : m.it.settings = k.it.settings)
    (hqueue : ∀ p ∈ m.li.flawQueue, p ∈ k.li.flawQueue) : m.Lawful g q O := by
  obtain ⟨⟨settings, cluster, closed, queue⟩, cap, opened⟩ := hk
  refine ⟨⟨hsettings.trans settings, ?_, ?_, fun p hp => queue p (hqueue p hp)⟩, ?_, ?_⟩
  · unfold clusterLaw at *
    rw [htable]
    exact cluster
  · rw [htable]; exact closed
  · intro x
    unfold It.usedBy It.count
    rw [htable, hsettings]
    exact cap x
  · rw [htable]; exact opened

/-- An operation that opens nothing. -/
theorem retire (hk : k.Lawful g q O) (h : Retires k.it m.it) (hm : m.Formed g q) : m.Lawful g q O := by
  refine ⟨hm, fun x => ?_, fun i a n hi => hk.opened i a n (h.opened hi)⟩
  rw [hm.settings, ← hk.settings]
  exact Nat.le_trans (h.usedBy_le x) (hk.cap x)

theorem releaseFront (hk : k.Lawful g q O) : (k.releaseFront hwm).Lawful g q O :=
  hk.retire (Retires.releaseFront k) hk.toFormed.releaseFront

theorem releaseAll (hk : k.Lawful g q O) : (k.releaseAll hwm).Lawful g q O :=
  hk.retire (Retires.releaseAll k) hk.toFormed.releaseAll

/-- R134, R138: sealing changes no member. -/
theorem sealed (hk : k.Lawful g q O) {u : It} (h : Seals k.it u) (hsame : SameButTable k.it u) :
    ({ k with it := u } : Track).Lawful g q O := by
  refine hk.retire (Retires.of_seals h) (hk.toFormed.setIt hsame (h.clusterLaw hk.cluster) fun i a n hi => ?_)
  rcases h i with heq | ⟨f, b, o, r, c, s, ht, hu⟩
  · exact hk.closed i a n (heq.symm.trans hi)
  · obtain ⟨rfl, -⟩ := TableEntry.held.inj (hu.symm.trans hi)
    exact hk.closed i b _ ht

/-- One entry becomes OPEN, or stays so, with another indication. -/
theorem setOpened (hk : k.Lawful g q O) {i : Fin 64} (hi : ∀ b n, k.it.table[i] ≠ .held b n) {a : Indication} {n : Nat}
    (hcap : capLaw (k.it.setEntry i (.opened a n))) (hnew : D a n)
    (hold : ∀ (j : Fin 64) (b : Indication) (m : Nat), k.it.table[j] = .opened b m → O b m → D b m) :
    ({ k with it := k.it.setEntry i (.opened a n) } : Track).Lawful g q D := by
  refine ⟨hk.toFormed.setUnheld hi (fun _ _ => nofun), hcap, fun j b m hj => ?_⟩
  rw [It.setEntry_get] at hj
  split at hj
  · obtain ⟨rfl, rfl⟩ := TableEntry.opened.inj hj
    exact hnew
  · exact hold j b m hj (hk.opened j b m hj)

/-! ## Closures -/

/-- A sweep through the table that opens nothing. -/
theorem foldl {f : Track → Fin 64 → Track} (hretire : ∀ k i, Retires k.it (f k i).it)
    (hform : ∀ k i, k.Lawful g q O → (f k i).Formed g q)
    (hdone : ∀ k i a n, k.Lawful g q O → (f k i).it.table[i] = .opened a n → D a n) :
    ∀ (l : List (Fin 64)) {k : Track}, k.Lawful g q O → (l.foldl f k).Lawful g q O ∧
      ∀ i ∈ l, ∀ (a : Indication) (n : Nat), (l.foldl f k).it.table[i] = .opened a n → D a n
  | [], _, hk => ⟨hk, fun _ hi => absurd hi List.not_mem_nil⟩
  | j :: l, k, hk => by
    obtain ⟨hlawful, hrest⟩ := foldl hretire hform hdone l (hk.retire (hretire k j) (hform k j hk))
    refine ⟨hlawful, fun i hi a n hopen => ?_⟩
    rcases List.mem_cons.1 hi with rfl | hmem
    · exact hdone k i a n hk ((Retires.foldl hretire l (f k i)).opened hopen)
    · exact hrest i hmem a n hopen

theorem sweep {f : Track → Fin 64 → Track} (hretire : ∀ k i, Retires k.it (f k i).it)
    (hform : ∀ k i, k.Lawful g q O → (f k i).Formed g q)
    (hdone : ∀ k i a n, k.Lawful g q O → (f k i).it.table[i] = .opened a n → D a n) (hk : k.Lawful g q O) :
    (allEntries.foldl f k).Lawful g q D := by
  obtain ⟨hlawful, hall⟩ := foldl hretire hform hdone allEntries hk
  exact hlawful.mono fun i a n hi _ => hall i (mem_allEntries i) a n hi

theorem notHeld {i : Fin 64} {a : Indication} {n : Nat} (hi : k.it.table[i] = .opened a n) :
    ∀ b l, k.it.table[i] ≠ .held b l := fun _ _ hheld => nomatch hi.symm.trans hheld

/-- R116, R117. -/
theorem closeAll (hk : k.Lawful g q O) (hO : ∀ a n, O a n → a.closable g) (mark : IndicationFlags → IndicationFlags) :
    (k.closeAll hwm mark).Lawful g q O := by
  unfold Track.closeAll
  refine (foldl (D := fun _ _ => True) (Retires.closeWith mark) (fun m i hm => ?_) (fun _ _ _ _ _ _ => trivial) allEntries hk).1
  unfold Track.closeWith
  split
  case h_1 a n hi => exact hm.toFormed.close (notHeld hi) (hO a n (hm.opened i a n hi))
  · exact hm.toFormed
  · exact hm.toFormed

end Track.Lawful

/-! ## The closing test -/

/-- An entry that has become HELD is not OPEN again. -/
theorem Retires.notOpened {t u : It} {j : Fin 64} {a : Indication} {m : Membership}
    (h : Retires (t.setEntry j (.held a m)) u) (b : Indication) (n : Nat) : u.table[j] ≠ .opened b n := fun hu => by
  have hj := h.opened hu
  rw [It.setEntry_get, if_pos rfl] at hj
  cases hj

theorem Track.startCluster_notOpened (hwm : Int) (j : Fin 64) (a : Indication) (k : Track) (b : Indication) (n : Nat) :
    (k.startCluster hwm j a).it.table[j] ≠ .opened b n := by
  unfold Track.startCluster
  dsimp only
  split
  · exact Retires.notOpened (Retires.releaseAll ⟨k.it.setEntry j _, k.li⟩) b n
  · exact Retires.notOpened (Retires.refl _) b n

/-- R114: a closed indication is not OPEN. -/
theorem Track.close_notOpened (hwm : Int) (j : Fin 64) (a : Indication) (k : Track) (b : Indication) (n : Nat) :
    (k.close hwm j a).it.table[j] ≠ .opened b n := by
  have hstart := k.startCluster_notOpened hwm j a b n
  have hjoin : ∀ h c, (k.it.join j a h c).table[j] ≠ .opened b n := fun h c =>
    Retires.notOpened (Retires.setCluster _ h _) b n
  unfold Track.close
  split
  · intro hj
    rw [It.setEntry_get, if_pos rfl] at hj
    cases hj
  · unfold Track.form
    split
    · exact hstart
    · split
      · exact hjoin _ _
      · exact hstart
    · split
      · exact Retires.notOpened (Retires.setCluster _ _ _) b n
      · split
        · exact hjoin _ _
        · exact hstart

/-- R113: an indication that is still OPEN has passed the test. -/
theorem Track.closeTest_passed {hwm : Int} {x : Side} {z : Int} {k : Track} {i : Fin 64} {a : Indication} {n : Nat}
    (h : (k.closeTest hwm x z i).it.table[i] = .opened a n) : k.it.table[i] = .opened a n ∧
      (a.side = x → n ≤ k.it.settings.bridge ∧ z - a.first + 1 < (k.it.settings.maxLength : Int)) := by
  have hi := (Retires.closeTest x z k i).opened h
  refine ⟨hi, fun hx => ?_⟩
  rw [Track.closeTest_opened hi hx] at h
  split at h
  case isTrue => exact absurd h (Track.close_notOpened hwm i _ k a n)
  case isFalse hbridge =>
    split at h
    case isTrue => exact absurd h (Track.close_notOpened hwm i _ k a n)
    case isFalse hlength => exact ⟨Nat.not_lt.1 hbridge, Int.not_le.1 hlength⟩

/-! ## The gates -/

/-- During the evaluation of step `z` at side `x`, with the gates `rest` still to come: what an OPEN indication of the side
meets; those of the other side meet their law. -/
def Gating (g : Tracking) (ev : Side → Int) (x : Side) (z : Int) (rest : List (OutcomeEntry × Nat)) (a : Indication)
    (n : Nat) : Prop :=
  (a.side = x → 1 ≤ a.hits ∧ (a.hits : Int) ≤ a.last - a.first + 1 ∧ a.last ≤ z ∧ z - a.first + 1 < (g.maxLength : Int) + 1 ∧
    (a.last < z ∨ ∀ p ∈ rest, ¬(a.shot = p.1.shot ∧ a.gate = p.2))) ∧
  (a.side ≠ x → a.openLaw g (ev a.side) n)

/-- Two gates of different keys. -/
def OtherKey (p r : OutcomeEntry × Nat) : Prop := ¬(p.1.shot = r.1.shot ∧ p.2 = r.2)

section Gates
variable {g : Tracking} {q : List (Pending FlawReport)} {ev : Side → Int} {x : Side} {z : Int} {c : EvalContext}
  {p : OutcomeEntry × Nat} {rest : List (OutcomeEntry × Nat)} {a : Indication} {n : Nat} {k : Track}

theorem Gating.next (h : Gating g ev x z (p :: rest) a n) : Gating g ev x z rest a n := by
  obtain ⟨hown, hother⟩ := h
  refine ⟨fun hx => ?_, hother⟩
  obtain ⟨hone, hhits, hlast, hfirst, hkey⟩ := hown hx
  exact ⟨hone, hhits, hlast, hfirst, hkey.imp_right fun hall r hr => hall r (List.mem_cons_of_mem _ hr)⟩

/-- Before the evaluation. -/
theorem Gating.of_openLaw (hev : ev x = z - 1) (h : a.openLaw g (ev a.side) n) : Gating g ev x z rest a n := by
  refine ⟨fun hx => ?_, fun _ => h⟩
  rw [hx, hev] at h
  obtain ⟨hone, hhits, hlast, hlength, -⟩ := h
  exact ⟨hone, hhits, by omega, by omega, .inl (by omega)⟩

theorem Gating.closable (hx : a.side = x) (h : Gating g ev x z rest a n) : a.closable g := by
  obtain ⟨hone, hhits, hlast, hlength, -⟩ := h.1 hx
  exact ⟨hone, hhits, by omega⟩

/-- R109: the hit of a key that has not been hit in this step. -/
theorem Gating.extend (hx : a.side = x) (h : Gating g ev x z (p :: rest) a n) (hshot : a.shot = p.1.shot) (hgate : a.gate = p.2)
    (hkeys : ∀ r ∈ rest, OtherKey p r) (m : Measurement) (o : ZoneOutcome) (l : Nat) :
    Gating g ev x z rest (a.extend z m o) l := by
  obtain ⟨hone, hhits, hlast, hlength, hkey⟩ := h.1 hx
  have hbefore : a.last < z := hkey.resolve_right fun hall => hall p List.mem_cons_self ⟨hshot, hgate⟩
  refine ⟨fun _ => ⟨Nat.le_add_left 1 _, ?_, Int.le_refl z, hlength, .inr fun r hr hkey => ?_⟩, fun hne => absurd hx hne⟩
  · show ((a.hits + 1 : Nat) : Int) ≤ z - a.first + 1
    omega
  · exact hkeys r hr ⟨hshot.symm.trans hkey.1, hgate.symm.trans hkey.2⟩

/-- R110: the hit that opens an indication. -/
theorem Gating.start (hg : g.law) (hkeys : ∀ r ∈ rest, OtherKey p r) (b : BitVec 16) (m : Measurement) (o : ZoneOutcome)
    (l : Nat) : Gating g ev x z rest (.start x p.1 p.2 b z m o) l := by
  obtain ⟨-, -, -, hlength, -⟩ := hg
  refine ⟨fun _ => ⟨Nat.le_refl 1, ?_, Int.le_refl z, ?_, .inr hkeys⟩, fun hne => absurd rfl hne⟩
  · show ((1 : Nat) : Int) ≤ z - z + 1
    omega
  · show z - z + 1 < (g.maxLength : Int) + 1
    omega

/-- R108 to R112: one gate. -/
theorem Track.Lawful.gate (hg : g.law) (hx : c.side = x) (hz : c.step = z) (hkeys : ∀ r ∈ rest, OtherKey p r)
    (hk : k.Lawful g q (Gating g ev x z (p :: rest))) :
    ({ k with it := (k.it.applyGate c p.1 p.2).1 } : Track).Lawful g q (Gating g ev x z rest) := by
  subst hx hz
  have hold : ∀ (j : Fin 64) (b : Indication) (m : Nat), k.it.table[j] = .opened b m →
      Gating g ev c.side c.step (p :: rest) b m → Gating g ev c.side c.step rest b m := fun _ _ _ _ h => h.next
  have hcases := k.it.applyGate_cases c p.1 p.2
  generalize (k.it.applyGate c p.1 p.2).1 = u at hcases ⊢
  cases hcases with
  | same => exact hk.mono hold
  | @counted i a run hfound f =>
    obtain ⟨hi, hside, -⟩ := It.findOpen_some hfound
    obtain ⟨hown, -⟩ := (hk.opened i a run hi).next
    exact hk.setOpened (Track.Lawful.notHeld hi) (capLaw_setOpened hk.cap (by rw [hi]; rfl) _)
      ⟨hown, fun hne => absurd hside hne⟩ hold
  | @extended i a run hfound m o =>
    obtain ⟨hi, hside, hshot, hgate⟩ := It.findOpen_some hfound
    exact hk.setOpened (Track.Lawful.notHeld hi) (capLaw_setOpened hk.cap (by rw [hi]; rfl) _)
      ((hk.opened i a run hi).extend hside hshot hgate hkeys m o 0) hold
  | @started i _ hclaim m o =>
    obtain ⟨-, hfree, -⟩ := It.claim_some.1 hclaim
    exact hk.setOpened (fun b n hi => nomatch hfree.symm.trans hi) (capLaw_claim hk.cap hclaim rfl 0)
      (Gating.start hg hkeys c.generation m o 0) hold

end Gates
end Sys2Proof.Machine

/-!
The law of the Indication Table through the step evaluations of a side and the work on its list (R61 to R74, R108 to R114).
-/
namespace Sys2Proof.Machine

/-- What an OPEN indication meets when each side has evaluated up to `ev`. -/
def OpenAt (g : Tracking) (ev : Side → Int) (a : Indication) (n : Nat) : Prop := a.openLaw g (ev a.side) n

/-- Where the sides have evaluated up to when `x` alone has moved on to `z`. -/
def movedTo (ev : Side → Int) (x : Side) (z : Int) (y : Side) : Int := if y = x then z else ev y

@[simp] theorem movedTo_self (ev : Side → Int) (x : Side) (z : Int) : movedTo ev x z x = z := if_pos rfl

theorem movedTo_of_ne {ev : Side → Int} {x y : Side} {z : Int} (h : y ≠ x) : movedTo ev x z y = ev y := if_neg h

theorem movedTo_same (ev : Side → Int) (x : Side) : movedTo ev x (ev x) = ev := by
  funext y
  by_cases h : y = x
  · rw [h, movedTo_self]
  · exact movedTo_of_ne h

theorem movedTo_movedTo (ev : Side → Int) (x : Side) (z w : Int) : movedTo (movedTo ev x z) x w = movedTo ev x w := by
  funext y
  by_cases h : y = x
  · rw [h, movedTo_self, movedTo_self]
  · rw [movedTo_of_ne h, movedTo_of_ne h, movedTo_of_ne h]

section
variable {g : Tracking} {q : List (Pending FlawReport)} {ev : Side → Int}

theorem OpenAt.closable {a : Indication} {n : Nat} (h : OpenAt g ev a n) : a.closable g := by
  obtain ⟨hone, hhits, hlast, hlength, -⟩ := h
  exact ⟨hone, hhits, by omega⟩

/-! ## One step evaluation of the tracker -/

theorem ShotList.detectGates_nodup (l : ShotList) (i : Nat) : (l.detectGates i).Nodup := by
  unfold ShotList.detectGates
  split
  · exact (zipIdx_filter_ascending (fun d : Gate => decide (d.purpose = .detect)) _ 0).1.imp Nat.ne_of_lt
  · exact List.nodup_nil

/-- The gates of a record have different keys. -/
theorem gates_otherKey (l : ShotList) {es : List OutcomeEntry} (h : (es.map (fun e => e.shot)).Nodup) :
    (es.flatMap (fun e => (l.detectGates e.shot).map (fun d => (e, d)))).Pairwise OtherKey := by
  refine List.pairwise_flatMap.2 ⟨fun e _ => ?_, (List.pairwise_map.1 h).imp fun hne p hp r hr hkey => ?_⟩
  · exact List.pairwise_map.2 ((l.detectGates_nodup e.shot).imp fun hne hkey => hne hkey.2)
  · obtain ⟨_, _, rfl⟩ := List.mem_map.1 hp
    obtain ⟨_, _, rfl⟩ := List.mem_map.1 hr
    exact hne hkey.1

/-- R108: all gates of a record. -/
theorem Track.Lawful.entries {c : EvalContext} (hg : g.law) (l : ShotList) {es : List OutcomeEntry}
    (hnodup : (es.map (fun e => e.shot)).Nodup) {k : Track} (hev : ev c.side = c.step - 1) (hk : k.Lawful g q (OpenAt g ev)) :
    ({ k with it := (It.applyEntries c l es (k.it, 0)).1 } : Track).Lawful g q (Gating g ev c.side c.step []) := by
  rw [It.applyEntries_eq]
  have hkeys := gates_otherKey l hnodup
  generalize es.flatMap (fun e => (l.detectGates e.shot).map (fun d => (e, d))) = ps at hkeys ⊢
  have hstart : k.Lawful g q (Gating g ev c.side c.step ps) := hk.mono fun _ _ _ _ h => Gating.of_openLaw hev h
  clear hk
  generalize (0 : Mask) = full
  induction ps generalizing k full with
  | nil => exact hstart
  | cons p ps ih =>
    obtain ⟨hp, hps⟩ := List.pairwise_cons.1 hkeys
    exact ih (k := { k with it := (k.it.applyGate c p.1 p.2).1 }) hps (hstart.gate hg rfl rfl hp) _

/-- R108 to R114: the evaluation of the step after the one its side has evaluated up to. -/
theorem Track.Lawful.evaluate {c : EvalContext} (hg : g.law) (hwm : Int) (l : ShotList) {es : List OutcomeEntry}
    (hnodup : (es.map (fun e => e.shot)).Nodup) {k : Track} (hev : ev c.side = c.step - 1) (hk : k.Lawful g q (OpenAt g ev)) :
    (k.evaluate hwm c l es).1.Lawful g q (OpenAt g (movedTo ev c.side c.step)) := by
  unfold Track.evaluate
  dsimp only
  refine Track.Lawful.sweep (Retires.closeTest c.side c.step) (fun m i hm => ?_) (fun m i a n hm hopen => ?_)
    (hk.entries hg l hnodup hev)
  · unfold Track.closeTest
    split
    case h_1 a n hi =>
      have hclosable := fun hx : a.side = c.side => (hm.opened i a n hi).closable hx
      split
      case isTrue hx =>
        split
        · exact hm.toFormed.close (Track.Lawful.notHeld hi) (hclosable hx)
        · split
          · exact hm.toFormed.close (Track.Lawful.notHeld hi) (hclosable hx)
          · exact hm.toFormed
      case isFalse => exact hm.toFormed
    · exact hm.toFormed
    · exact hm.toFormed
  · obtain ⟨hi, hpassed⟩ := Track.closeTest_passed hopen
    obtain ⟨hown, hother⟩ := hm.opened i a n hi
    rw [hm.settings] at hpassed
    unfold OpenAt
    by_cases hx : a.side = c.side
    · rw [hx, movedTo_self]
      obtain ⟨hone, hhits, hlast, -⟩ := hown hx
      obtain ⟨hbridge, hlength⟩ := hpassed hx
      exact ⟨hone, hhits, hlast, hlength, hbridge⟩
    · rw [movedTo_of_ne hx]
      exact hother hx

/-! ## One step evaluation of the state -/

theorem Li.SlotsOnly.flawQueue {l m : Li} (h : l.SlotsOnly m) : m.flawQueue = l.flawQueue := by
  unfold Li.SlotsOnly at h
  rw [h]

theorem Recorder.foldl_flawQueue {f : Recorder → GapCause → Recorder} (hf : ∀ r c, (f r c).li.flawQueue = r.li.flawQueue) :
    ∀ (l : List GapCause) (r : Recorder), (l.foldl f r).li.flawQueue = r.li.flawQueue
  | [], _ => rfl
  | c :: l, r => (Recorder.foldl_flawQueue hf l (f r c)).trans (hf r c)

theorem Recorder.closeGap_flawQueue (x : Side) (drain : Bool) (r : Recorder) (c : GapCause) :
    (r.closeGap x drain c).li.flawQueue = r.li.flawQueue := by
  unfold Recorder.closeGap
  split
  · rfl
  case h_2 p _ =>
    obtain ⟨hslots, -⟩ := Li.placeGap_slotsOnly x (p.range c drain) r.li
    exact hslots.flawQueue

theorem Recorder.evaluate_flawQueue (x : Side) (z : Int) (causes : GapCause → Mask) (r : Recorder) :
    (r.evaluate x z causes).li.flawQueue = r.li.flawQueue := by
  unfold Recorder.evaluate
  refine Recorder.foldl_flawQueue (fun r c => ?_) gapCauses _
  unfold Recorder.absent
  split
  · exact r.closeGap_flawQueue x false c
  · rfl

theorem stepEvaluation_lawful {s : State} {x : Side} {r : StepRecord} {rest : List StepRecord} (hg : g.law)
    (hfin : (s.se.get x).finished = r :: rest) (hstep : ev x = r.step - 1) (hnodup : (r.entries.map (fun e => e.shot)).Nodup)
    (hs : s.track.Lawful g q (OpenAt g ev)) :
    (stepEvaluation x s).track.Lawful g q (OpenAt g (movedTo ev x r.step)) := by
  have hnext := Track.Lawful.evaluate (c := ⟨x, r.step, s.ps.generation, s.nextVerdict x r.step⟩) hg s.du.hwm
    (s.ps.active.get x) hnodup hstep hs
  unfold stepEvaluation
  rw [hfin]
  dsimp only at hnext ⊢
  generalize s.track.evaluate s.du.hwm ⟨x, r.step, s.ps.generation, s.nextVerdict x r.step⟩ (s.ps.active.get x) r.entries = k
    at hnext ⊢
  refine hnext.congr rfl rfl fun p hp => ?_
  have hqueue := Recorder.evaluate_flawQueue x r.step (stepCause r.entries k.2)
    ((s.setTrack ⟨{ k.1.it with verdicts := k.1.it.verdicts.set x (k.1.it.verdicts.get x).tail }, k.1.li⟩).recorder x)
  exact hqueue ▸ hp

/-! ## The records of a list -/

/-- The records of the steps from `z + 1` on, each with one entry at most for a shot. -/
def Consecutive (z : Int) (l : List StepRecord) : Prop :=
  ∀ (i : Nat) (r : StepRecord), l[i]? = some r → r.step = z + 1 + (i : Int) ∧ (r.entries.map (fun e => e.shot)).Nodup

theorem Consecutive.head {z : Int} {r : StepRecord} {rest : List StepRecord} (h : Consecutive z (r :: rest)) :
    r.step = z + 1 ∧ (r.entries.map (fun e => e.shot)).Nodup := by
  obtain ⟨hstep, hnodup⟩ := h 0 r rfl
  exact ⟨hstep.trans (Int.add_zero _), hnodup⟩

theorem Consecutive.tail {z : Int} {r : StepRecord} {rest : List StepRecord} (h : Consecutive z (r :: rest)) :
    Consecutive (z + 1) rest := fun i s hs => by
  obtain ⟨hstep, hnodup⟩ := h (i + 1) s hs
  exact ⟨by omega, hnodup⟩

theorem Consecutive.cons {z : Int} {r : StepRecord} {rest : List StepRecord} (hstep : r.step = z + 1)
    (hnodup : (r.entries.map (fun e => e.shot)).Nodup) (h : Consecutive (z + 1) rest) : Consecutive z (r :: rest) := by
  intro i s hs
  cases i with
  | zero =>
    obtain rfl := Option.some.inj hs
    exact ⟨hstep.trans (Int.add_zero _).symm, hnodup⟩
  | succ i =>
    obtain ⟨hs, hnodup⟩ := h i s hs
    exact ⟨by omega, hnodup⟩

/-- R63, R72: skipped shots are each entered once. -/
theorem skipEntries_sublist (cause : GapCause) (l : ShotList) : ∀ is : List Nat,
    List.Sublist ((skipEntries cause l is).map (fun e => e.shot)) is
  | [] => List.Sublist.refl _
  | i :: is => by
    have ih := skipEntries_sublist cause l is
    unfold skipEntries at *
    cases hi : l.shots[i]? with
    | none =>
      rw [List.filterMap_cons_none (by rw [hi]; rfl)]
      exact ih.cons i
    | some p =>
      rw [List.filterMap_cons_some (by rw [hi]; rfl)]
      exact ih.cons_cons i

theorem skipRecord_nodup (cause : GapCause) (b : BitVec 16) (l : ShotList) (z : Int) :
    ((skipRecord cause b l z).entries.map (fun e => e.shot)).Nodup :=
  (skipEntries_sublist cause l _).nodup ((dueIndices_ascending l z).imp Nat.ne_of_lt)

theorem owedRecords_consecutive (l : ShotList) (f : Firing) : Consecutive f.step (owedRecords l f) := by
  intro i r hr
  unfold owedRecords at hr
  rw [List.getElem?_map] at hr
  obtain ⟨j, hj, rfl⟩ := Option.map_eq_some_iff.1 hr
  obtain ⟨-, rfl⟩ := List.getElem?_eq_some_iff.1 hj
  rw [List.getElem_range]
  exact ⟨rfl, skipRecord_nodup _ _ _ _⟩

theorem evaluateTimes_lawful (hg : g.law) {x : Side} : ∀ {l : List StepRecord} {s : State} {ev : Side → Int},
    (s.se.get x).finished = l → Consecutive (ev x) l → s.track.Lawful g q (OpenAt g ev) →
      (evaluateTimes x l.length s).track.Lawful g q (OpenAt g (movedTo ev x (ev x + (l.length : Int))))
  | [], s, ev, _, _, hs => by
    rw [show ev x + ((([] : List StepRecord).length : Nat) : Int) = ev x from Int.add_zero _, movedTo_same]
    exact hs
  | r :: rest, s, ev, hfin, hcons, hs => by
    obtain ⟨hstep, hnodup⟩ := hcons.head
    have hnext := stepEvaluation_lawful hg hfin (by omega) hnodup hs
    have hfin' : ((stepEvaluation x s).se.get x).finished = rest := by
      rw [stepEvaluation_se hfin]
      split
      case isTrue hnil => exact hnil.symm
      case isFalse => rfl
    have hrest := evaluateTimes_lawful hg hfin' (by rw [movedTo_self, hstep]; exact hcons.tail) hnext
    rw [movedTo_self, movedTo_movedTo] at hrest
    rw [show ev x + ((r :: rest).length : Int) = r.step + (rest.length : Int) by rw [List.length_cons]; omega]
    exact hrest

end
end Sys2Proof.Machine

/-!
The law of the Indication Table through stops and drains, and through the work of one Shot Engine (R57 to R74, R134 to R138).
-/
namespace Sys2Proof.Machine

section
variable {g : Tracking} {q : List (Pending FlawReport)} {ev : Side → Int}

/-! ## Stops and drains -/

theorem Track.Lawful.ofLink {O : Indication → Nat → Prop} {k : Track} (hk : k.Lawful g q O) {l : Li}
    (h : l.flawQueue = k.li.flawQueue) : ({ k with li := l } : Track).Lawful g q O :=
  hk.congr rfl rfl fun _ hp => h ▸ hp

theorem Li.placeSide_flawQueue (x : Side) (e : BitVec 6) (m : Bool) (l : Li) : (l.placeSide x e m).flawQueue = l.flawQueue := by
  unfold Li.placeSide
  split <;> rfl

theorem Li.placeCoupling_flawQueue (x : Side) (ch : Channel) (m : Bool) (l : Li) :
    (l.placeCoupling x ch m).flawQueue = l.flawQueue := by
  unfold Li.placeCoupling
  split <;> rfl

theorem commitDu_lawful {O : Indication → Nat → Prop} (latch : MotionCauses) (d : Du) {s : State}
    (hs : s.track.Lawful g q O) : (commitDu latch d s).track.Lawful g q O := by
  obtain ⟨l, heq, hslots⟩ := commitDu_frame latch d s
  rw [heq]
  exact hs.ofLink hslots.flawQueue

theorem setTrack_lawful {O : Indication → Nat → Prop} (s : State) {k : Track} (hk : k.Lawful g q O) :
    (s.setTrack k).track.Lawful g q O := hk

/-- R134, R138. -/
theorem setIt_sealed {O : Indication → Nat → Prop} {s : State} {t : It} (h : Seals s.it t) (hsame : SameButTable s.it t)
    (hs : s.track.Lawful g q O) : (s.setIt t).track.Lawful g q O := hs.sealed h hsame

theorem releaseClusters_lawful {O : Indication → Nat → Prop} {s : State} (hs : s.track.Lawful g q O) :
    (releaseClusters s).track.Lawful g q O := by
  unfold releaseClusters
  exact setTrack_lawful s hs.releaseAll

/-- Stops, drains and events keep the law, whatever the sides have evaluated up to. -/
theorem lawful_drainKept (g : Tracking) (q : List (Pending FlawReport)) (ev : Side → Int) :
    DrainKept (fun s => s.track.Lawful g q (OpenAt g ev)) where
  runstate {s} c w hs := by
    obtain ⟨l, heq, hslots, -⟩ := placeRunstate_frame c w s
    rw [heq]
    exact hs.ofLink hslots.flawQueue
  swap {s} hs := by
    obtain ⟨b, c, l, heq, hslots⟩ := swapPlans_frame s
    rw [heq]
    exact hs.ofLink hslots.flawQueue
  record x ch hs := by
    unfold recordTakesEffect
    split <;> exact hs
  gaps {s} x hs := by
    obtain ⟨d, l, heq, hslots, -⟩ := drainGaps_frame x s
    rw [heq]
    exact hs.ofLink hslots.flawQueue
  free _ hs := hs
  run _ _ _ _ hs := hs
  release hs := releaseClusters_lawful hs
  closing {s} m hs := setTrack_lawful s (hs.closeAll (fun _ _ h => h.closable) m)
  sealing {s} hs := setIt_sealed (It.sealForced_seals s.it) (It.sealForced_same s.it) hs
  side {s} x e m hs := hs.ofLink (Li.placeSide_flawQueue x e m s.li)
  coupling {s} x ch m hs := hs.ofLink (Li.placeCoupling_flawQueue x ch m s.li)

/-! ## The work on a list -/

/-- The law once side `x` alone has evaluated further than `ev`. -/
def State.LawfulAfter (g : Tracking) (q : List (Pending FlawReport)) (ev : Side → Int) (x : Side) (t : State) : Prop :=
  t.track.Lawful g q (OpenAt g (movedTo ev x (t.evaluatedTo x)))

theorem State.evaluatedTo_idle {s : State} {x : Side} {l : List StepRecord} (h : s.se.get x = ⟨none, l⟩) :
    s.evaluatedTo x = s.du.hwm := by
  unfold State.evaluatedTo
  rw [h]

theorem State.evaluatedTo_firing {s : State} {x : Side} {f : Firing} (h : (s.se.get x).firing = some f) :
    s.evaluatedTo x = f.step - 1 := by
  unfold State.evaluatedTo
  rw [h]

/-- An engine that goes on with the step it was at. -/
theorem State.lawfulAfter_firing {s : State} {x : Side} {f : Firing} (h : (s.se.get x).firing = some f)
    (hev : ev x = f.step - 1) (hs : s.track.Lawful g q (OpenAt g ev)) : s.LawfulAfter g q ev x := by
  unfold State.LawfulAfter
  rw [State.evaluatedTo_firing h, ← hev, movedTo_same]
  exact hs

/-- R72: the finished records are those of the steps up to the high-water mark. -/
theorem evaluateFinished_lawful {s : State} {x : Side} (hg : g.law) (hne : (s.se.get x).finished ≠ [])
    (hcons : Consecutive (ev x) (s.se.get x).finished) (hmark : ev x + ((s.se.get x).finished.length : Int) = s.du.hwm)
    (hs : s.track.Lawful g q (OpenAt g ev)) : (evaluateFinished x s).LawfulAfter g q ev x := by
  have htimes := evaluateTimes_lawful hg rfl hcons hs
  obtain ⟨helse, -⟩ := evaluateTimes_worked (x := x) (s := s) rfl
  have hhwm : (evaluateFinished x s).du.hwm = s.du.hwm := Steady.drainTest.hwm.trans helse.hwm
  unfold State.LawfulAfter
  rw [State.evaluatedTo_idle (evaluateFinished_se rfl hne), hhwm, ← hmark]
  exact (lawful_drainKept g q _).drainTest htimes

theorem endOfList_lawful {s : State} {x : Side} {f : Firing} (hg : g.law) (hf : (s.se.get x).firing = some f)
    (hmark : f.step + f.owed = s.du.hwm) (hnodup : (f.record.map (fun e => e.shot)).Nodup) (hev : ev x = f.step - 1)
    (hs : s.track.Lawful g q (OpenAt g ev)) : (endOfList x s).LawfulAfter g q ev x := by
  rw [endOfList_some hf]
  have hfin : ∀ v : Se, ((s.setSe x v).se.get x).finished = v.finished := fun v => by rw [State.setSe_se, PerSide.get_set_self]
  refine evaluateFinished_lawful hg ?_ ?_ ?_ hs
  · rw [hfin]
    exact List.cons_ne_nil _ _
  · rw [hfin]
    have howed := owedRecords_consecutive (s.ps.active.get x) f
    rw [show f.step = ev x + 1 by omega] at howed
    exact .cons (show f.step = ev x + 1 by omega) hnodup howed
  · rw [hfin]
    show ev x + _ = s.du.hwm
    simp only [owedRecords, List.length_cons, List.length_map, List.length_range]
    omega

theorem Firing.law.record_nodup {aw : List Int} {hwm : Int} {f : Firing} (h : f.law aw hwm) :
    (f.record.map (fun e => e.shot)).Nodup := by
  obtain ⟨-, -, hnodup, hrecord, -⟩ := h
  exact (hrecord.trans (List.take_sublist _ _)).nodup hnodup

theorem Firing.law.mark {aw : List Int} {hwm : Int} {f : Firing} (h : f.law aw hwm) : f.step + f.owed = hwm := h.2.1

/-- R74: the shots that are left are skipped. -/
theorem abortList_lawful {s : State} {x : Side} {f : Firing} (hg : g.law) (hf : (s.se.get x).firing = some f)
    (hlaw : f.law (s.awaiting x) s.du.hwm) (hev : ev x = f.step - 1) (hs : s.track.Lawful g q (OpenAt g ev)) :
    (abortList x s).LawfulAfter g q ev x := by
  obtain ⟨-, hmark, hnodup, hrecord, -⟩ := hlaw
  have hskip := skipEntries_sublist .sideNotReady (s.ps.active.get x) (f.due.drop f.position)
  unfold abortList
  rw [hf]
  refine endOfList_lawful (f := { f with
    inFlight := none
    record := f.record ++ skipEntries .sideNotReady (s.ps.active.get x) (f.due.drop f.position) }) hg ?_ hmark ?_ hev hs
  · rw [State.modifyFiring_some hf, State.setSe_se, PerSide.get_set_self]
  · have hall := hrecord.append hskip
    rw [List.take_append_drop] at hall
    rw [List.map_append]
    exact hall.nodup hnodup

/-- R65, R71. -/
theorem reachShots_lawful (hg : g.law) {x : Side} : ∀ {due : List Nat} {s : State} {f : Firing}, s.Reaching x f due →
    ev x = f.step - 1 → s.track.Lawful g q (OpenAt g ev) → (reachShots x due s).LawfulAfter g q ev x
  | [], s, f, h, hev, hs => endOfList_lawful hg (congrArg Se.firing h.engine) h.law.mark h.law.record_nodup hev hs
  | i :: due, s, f, h, hev, hs => by
    obtain ⟨hhead, hrest⟩ := h.head
    have hset : ∀ d : Firing → Firing, (s.modifyFiring x d).se.get x = ⟨some (d f), []⟩ := fun d => by
      rw [State.modifyFiring_some (congrArg Se.firing h.engine), State.setSe_se, PerSide.get_set_self, h.engine]
    have hnext : ∀ d : Firing → Firing, (d f).law (s.awaiting x) s.du.hwm → (d f).inFlight = none →
        due = (d f).due.drop (d f).position → (d f).step = f.step →
          (reachShots x due (s.modifyFiring x d)).LawfulAfter g q ev x := fun d hlaw hidle hdue hstep =>
      reachShots_lawful hg ⟨hset d, hlaw, hidle, hdue⟩ (hev.trans (by rw [hstep])) hs
    have hskip : ∀ (cause : GapCause) (p : PlannedShot),
        (reachShots x due (s.modifyFiring x (Firing.addEntry (skipEntry cause i p)))).LawfulAfter g q ev x := fun cause p =>
      hnext _ (h.law.addEntry hhead) rfl hrest rfl
    unfold reachShots
    split
    · exact hnext _ (h.law.pass h.idle) h.idle hrest rfl
    · split
      · exact hskip _ _
      · split
        · refine State.lawfulAfter_firing (s := s.modifyFiring x _) (congrArg Se.firing (hset _)) hev hs
        · exact hskip _ _

/-- R60 to R64: the engine at a fire boundary. -/
theorem engineBoundary_lawful {s : State} {x : Side} {z : Int} (hg : g.law) (h : s.Entering x z)
    (hidle : (s.se.get x).firing = none → ev x = z - 1)
    (hfiring : ∀ f, (s.se.get x).firing = some f → ev x = f.step - 1) (hs : s.track.Lawful g q (OpenAt g ev)) :
    (engineBoundary x z s).LawfulAfter g q ev x := by
  cases hf : (s.se.get x).firing with
  | some f =>
    rw [engineBoundary_owes hf]
    refine State.lawfulAfter_firing (f := { f with owed := f.owed + 1 }) ?_ (hfiring f hf) hs
    rw [State.setSe_se, PerSide.get_set_self]
  | none =>
    have hev := hidle hf
    by_cases hskip : (s.ps.active.get x).dueIndices z = [] ∨ (s.sc.get x).state ≠ .armed
    · rw [engineBoundary_skips hf hskip]
      refine evaluateFinished_lawful hg ?_ ?_ ?_ hs
      · rw [State.setSe_se, PerSide.get_set_self]
        exact List.cons_ne_nil _ _
      · rw [State.setSe_se, PerSide.get_set_self]
        exact .cons (show z = ev x + 1 by omega) (skipRecord_nodup _ _ _ _) (fun i r hr => nomatch hr)
      · rw [State.setSe_se, PerSide.get_set_self]
        show ev x + ((1 : Nat) : Int) = s.du.hwm
        rw [h.mark]
        omega
    · obtain ⟨hbegin, hreaching⟩ := h.begins hf hskip
      rw [hbegin]
      exact reachShots_lawful hg hreaching hev hs

end
end Sys2Proof.Machine

/-!
How the law of the Indication Table goes on through a request, an event and a fire boundary (R104, R106, R124, R128, R140).
-/
namespace Sys2Proof.Machine

/-- `u` stands after `s` with the law of step evaluation; its Indication Table keeps the law of the settings `g`, and a FLAW
report that waits was in `q` or meets its law. -/
structure Lasting (g : Tracking) (q : List (Pending FlawReport)) (s u : State) : Prop extends Continues s u where
  settings : g.law
  lawful : u.track.Lawful g q (OpenAt g u.evaluatedTo)

/-! ## Where a side has evaluated up to -/

theorem State.evaluatedTo_congr {s t : State} {x : Side} (hse : t.se.get x = s.se.get x) (hhwm : t.du.hwm = s.du.hwm) :
    t.evaluatedTo x = s.evaluatedTo x := by
  unfold State.evaluatedTo
  rw [hse, hhwm]

theorem Elsewhere.evaluatedTo {x : Side} {s t : State} (h : Elsewhere x s t) :
    movedTo s.evaluatedTo x (t.evaluatedTo x) = t.evaluatedTo := by
  funext y
  by_cases hy : y = x
  · rw [hy, movedTo_self]
  · rw [movedTo_of_ne hy]
    exact (State.evaluatedTo_congr (h.se y hy) h.hwm).symm

namespace Lasting
variable {g : Tracking} {q : List (Pending FlawReport)} {s u v : State}

/-! ## Work outside the engines, and work at one side -/

theorem keep (h : Lasting g q s u) (k : Continues s v) (hse : v.se = u.se) (hhwm : v.du.hwm = u.du.hwm)
    (hv : v.track.Lawful g q (OpenAt g u.evaluatedTo)) : Lasting g q s v := by
  have hev : v.evaluatedTo = u.evaluatedTo := funext fun x => State.evaluatedTo_congr (by rw [hse]) hhwm
  exact ⟨k, h.settings, by rw [hev]; exact hv⟩

theorem steady (h : Lasting g q s u) (k : Steady u v)
    (hv : u.track.Lawful g q (OpenAt g u.evaluatedTo) → v.track.Lawful g q (OpenAt g u.evaluatedTo)) : Lasting g q s v :=
  h.keep (h.toContinues.steady k) k.se k.hwm (hv h.lawful)

/-- Work that keeps the table, the settings and the reports that wait. -/
theorem apart (h : Lasting g q s u) (k : Steady u v) (ht : v.it.table = u.it.table) (hs : v.it.settings = u.it.settings)
    (hq : v.li.flawQueue = u.li.flawQueue) : Lasting g q s v :=
  h.steady k fun hu => hu.congr ht hs fun _ hp => hq ▸ hp

theorem worked (h : Lasting g q s u) {x : Side} {f : Firing} (hf : (u.se.get x).firing = some f) (k : Worked x u v)
    (hv : v.LawfulAfter g q u.evaluatedTo x) : Lasting g q s v := by
  refine ⟨h.toContinues.worked hf k, h.settings, ?_⟩
  unfold State.LawfulAfter at hv
  rw [k.elsewhere.evaluatedTo] at hv
  exact hv

theorem firingLaw (h : Lasting g q s u) {x : Side} {f : Firing} (hf : (u.se.get x).firing = some f) :
    (u.se.get x).finished = [] ∧ f.law (u.awaiting x) u.du.hwm := by
  obtain ⟨-, hside, -⟩ := h.parts
  obtain ⟨hfinished, -, hsome⟩ := hside x
  exact ⟨hfinished, hsome f hf⟩

theorem setLi (h : Lasting g q s u) {l : Li} (hl : l.flawQueue = u.li.flawQueue) : Lasting g q s (u.setLi l) :=
  h.apart (.setLi l) rfl rfl hl

theorem modifySc (h : Lasting g q s u) (x : Side) (d : Sc → Sc) : Lasting g q s (u.modifySc x d) :=
  h.apart (.modifySc x d) rfl rfl rfl

theorem drainTest (h : Lasting g q s u) : Lasting g q s (drainTest u) :=
  h.steady .drainTest (lawful_drainKept g q _).drainTest

theorem drainEndTest (h : Lasting g q s u) : Lasting g q s (drainEndTest u) :=
  h.steady .drainEndTest (lawful_drainKept g q _).drainEndTest

theorem beginStop (h : Lasting g q s u) (c : StopCause) : Lasting g q s (beginStop c u) :=
  h.steady (.beginStop c) ((lawful_drainKept g q _).beginStop c)

theorem record (h : Lasting g q s u) (x : Side) (ch : Channel) : Lasting g q s (recordTakesEffect x u ch) :=
  h.steady (.recordTakesEffect x ch) ((lawful_drainKept g q _).record x ch)

theorem swapPlans (h : Lasting g q s u) : Lasting g q s (swapPlans u) :=
  h.steady .swapPlans (lawful_drainKept g q _).swap

/-- A change of the Distance Unit that leaves the high-water mark. -/
theorem commitDu (h : Lasting g q s u) (latch : MotionCauses) {d : Du} (k : Continues s (commitDu latch d u))
    (hhwm : d.hwm = u.du.hwm) : Lasting g q s (Machine.commitDu latch d u) := by
  have hlawful := commitDu_lawful latch d h.lawful
  obtain ⟨l, heq, -⟩ := commitDu_frame latch d u
  rw [heq] at k hlawful ⊢
  exact h.keep k rfl hhwm hlawful

theorem commitDu_steady (h : Lasting g q s u) (latch : MotionCauses) {d : Du} (hstep : d.step = u.du.step)
    (hhwm : d.hwm = u.du.hwm) : Lasting g q s (Machine.commitDu latch d u) :=
  h.commitDu latch (h.toContinues.steady (.commitDu latch hstep hhwm)) hhwm

theorem abortList (h : Lasting g q s u) (x : Side) : Lasting g q s (abortList x u) := by
  cases hf : (u.se.get x).firing with
  | none =>
    unfold Machine.abortList
    rw [hf]
    exact h
  | some f =>
    obtain ⟨-, hlaw⟩ := h.firingLaw hf
    exact h.worked hf (abortList_worked hf (h.toContinues.length hf))
      (abortList_lawful h.settings hf hlaw (State.evaluatedTo_firing hf) h.lawful)

end Lasting

theorem lasting_sideKept (g : Tracking) (q : List (Pending FlawReport)) (s : State) : SideKept (Lasting g q s) where
  modify x d _ h := h.modifySc x d
  raise x e h := h.steady (.raiseSide x e) ((lawful_drainKept g q _).raiseSide x e)
  abort x h := h.abortList x
  waits n h := h.apart (.advanceTo n) rfl rfl rfl

/-- R67 to R69: the outcome of a shot. -/
theorem shotOutcome_lawful {g : Tracking} {q : List (Pending FlawReport)} {ev : Side → Int} {s : State} (x : Side)
    (load : LoadStatus) (trace : List Nat) (fl : InFlight) (p : PlannedShot) (hs : s.track.Lawful g q (OpenAt g ev)) :
    (shotOutcome x load trace fl p s).2.track.Lawful g q (OpenAt g ev) := by
  have hkept := lawful_drainKept g q ev
  have hfault : ∀ ch l, (loadFault x ch l s).track.Lawful g q (OpenAt g ev) := fun ch l => by
    unfold loadFault
    split
    · exact hkept.raiseSide x _ hs
    · exact hs
  cases load with
  | openLoad => exact hfault _ _
  | shorted => exact hfault _ _
  | good =>
    simp only [shotOutcome]
    cases couplingGood (evaluateGates (deliveredTrace trace fl.params.listeningEnd) p.shot.gates) with
    | none => dsimp only; split <;> exact hs
    | some good => dsimp only; split <;> exact hkept.couplingResult x _ good fun _ => hs

/-- R66 to R71: a completion. -/
theorem Lasting.completeShot {g : Tracking} {q : List (Pending FlawReport)} {s u : State} (h : Lasting g q s u) (x : Side)
    (load : LoadStatus) (trace : List Nat) : Lasting g q s (completeShot x load trace u) := by
  unfold Machine.completeShot
  split
  case h_1 => exact h
  case h_2 f hf =>
    split
    case h_1 => exact h
    case h_2 fl hfl =>
      dsimp only
      have hnow := h.apart (Steady.advanceTo (fl.start + fl.duration * Config.tuPerUs)) rfl rfl rfl
      split
      case h_1 => exact hnow
      case h_2 p hp =>
        have hresult := Steady.shotOutcome (s := u.advanceTo (fl.start + fl.duration * Config.tuPerUs)) x load trace fl p
        have hv := hnow.steady hresult (shotOutcome_lawful x load trace fl p)
        generalize shotOutcome x load trace fl p (u.advanceTo (fl.start + fl.duration * Config.tuPerUs)) = r at hresult hv ⊢
        have hse : (r.2.se.get x).firing = some f := by rw [hresult.se]; exact hf
        obtain ⟨hfinished, hlaw⟩ := hv.firingLaw hse
        obtain ⟨-, -, -, -, hflight⟩ := id hlaw
        have hreaching : (r.2.modifyFiring x (Firing.addEntry ⟨fl.shot, p.shot.tx, p.shot.rx, r.1⟩)).Reaching x
            (f.addEntry ⟨fl.shot, p.shot.tx, p.shot.rx, r.1⟩) (f.due.drop (f.position + 1)) := by
          refine ⟨?_, hlaw.addEntry (e := ⟨fl.shot, p.shot.tx, p.shot.rx, r.1⟩) (hflight fl hfl), rfl, rfl⟩
          rw [State.modifyFiring_some hse, State.setSe_se, PerSide.get_set_self]
          exact congrArg (Se.mk _) hfinished
        exact hv.worked hse (Worked.after (modifyFiring_elsewhere r.2 x _) rfl (reachShots_worked hreaching))
          (reachShots_lawful hv.settings hreaching
            (show _ = f.step - 1 from State.evaluatedTo_firing hse) hv.lawful)

/-! ## The fire boundary -/

/-- Where each side has evaluated up to when the boundary into `z` comes. -/
def enteredAt (s : State) (z : Int) (x : Side) : Int :=
  match (s.se.get x).firing with
  | none => z - 1
  | some f => f.step - 1

theorem trackerBoundary_lawful {g : Tracking} {q : List (Pending FlawReport)} {O : Indication → Nat → Prop} {s : State} (z : Int)
    (hs : s.track.Lawful g q O) : (trackerBoundary z s).track.Lawful g q O := by
  have happended : Track.Lawful g q O ⟨s.it.appendVerdicts z, s.li⟩ := hs.congr rfl rfl fun _ hp => hp
  unfold trackerBoundary
  refine releaseClusters_lawful (s := s.setIt _) ?_
  exact happended.sealed (It.sealDue_seals _ _) (It.sealDue_same _ _)

/-- The two engines, one after the other. -/
theorem bothEngines_lawful {g : Tracking} {q : List (Pending FlawReport)} {s : State} {z : Int} (first : Side) (hg : g.law)
    (h : ∀ x, s.Entering x z) (hs : s.track.Lawful g q (OpenAt g (enteredAt s z))) :
    let t := engineBoundary (otherSide first) z (engineBoundary first z s)
    t.track.Lawful g q (OpenAt g t.evaluatedTo) := by
  intro t
  have hother : otherSide first ≠ first := by cases first <;> decide
  have hidle : ∀ x, (s.se.get x).firing = none → enteredAt s z x = z - 1 := fun x hf => by unfold enteredAt; rw [hf]
  have hfiring : ∀ x f, (s.se.get x).firing = some f → enteredAt s z x = f.step - 1 := fun x f hf => by
    unfold enteredAt; rw [hf]
  have hone := (engineBoundary_worked (h first)).elsewhere
  have hentering := (h (otherSide first)).elsewhere hone hother
  have hse := hone.se (otherSide first) hother
  have hmid := engineBoundary_lawful hg (h first) (hidle first) (hfiring first) hs
  have htwo := (engineBoundary_worked hentering).elsewhere
  have hlast := engineBoundary_lawful hg hentering (fun hf => ?idle) (fun f hf => ?firing) hmid
  case idle =>
    rw [movedTo_of_ne hother]
    exact hidle _ (by rw [← hse]; exact hf)
  case firing =>
    rw [movedTo_of_ne hother]
    exact hfiring _ f (by rw [← hse]; exact hf)
  have hev : movedTo (movedTo (enteredAt s z) first ((engineBoundary first z s).evaluatedTo first))
      (otherSide first) (t.evaluatedTo (otherSide first)) = t.evaluatedTo := by
    funext y
    by_cases hy : y = otherSide first
    · rw [hy, movedTo_self]
    · have hyf : y = first := by
        cases first <;> cases y
        · rfl
        · exact absurd rfl hy
        · exact absurd rfl hy
        · rfl
      rw [movedTo_of_ne hy, hyf, movedTo_self]
      exact (State.evaluatedTo_congr (htwo.se first hother.symm) htwo.hwm).symm
  unfold State.LawfulAfter at hlast
  rw [hev] at hlast
  exact hlast

/-- R8: at the boundary into `z` an indication is OPEN only when `z` follows the high-water mark. -/
theorem Lasting.entered {g : Tracking} {q : List (Pending FlawReport)} {s : State} {z : Int} (h : Lasting g q s s)
    (hrun : s.rc.run = .running) (hnext : z = s.du.step + 1) (habove : s.du.hwm < z) :
    s.track.Lawful g q (OpenAt g (enteredAt s z)) := by
  obtain ⟨-, -, hbusy⟩ := h.parts
  refine h.lawful.mono fun i a n hi hopen => ?_
  have hempty : s.it.empty = false := Bool.eq_false_iff.2 fun he => nomatch (It.empty_iff.1 he i).symm.trans hi
  have hstep := hbusy hrun (.inr hempty)
  have hev : enteredAt s z a.side = s.evaluatedTo a.side := by
    unfold enteredAt State.evaluatedTo
    cases (s.se.get a.side).firing with
    | none => dsimp only; omega
    | some f => rfl
  unfold OpenAt
  rw [hev]
  exact hopen

theorem fireBoundary_lasting {g : Tracking} {q : List (Pending FlawReport)} {s u : State} (first : Side) {z : Int}
    (h : Lasting g q s s) (hrun : s.rc.run = .running) (hnext : z = s.du.step + 1) (habove : s.du.hwm < z)
    (hse : u.se = s.se) (hv : u.it.verdicts = s.it.verdicts) (hhwm : u.du.hwm = z) (hstep : u.du.step = z)
    (hpin : u.pinReset = s.pinReset) (hu : u.track.Lawful g q (OpenAt g (enteredAt s z))) :
    Lasting g q s (fireBoundary first z u) := by
  refine ⟨fireBoundary_continues first h.live h.law hrun hnext habove hse hv hhwm hstep hpin, h.settings, ?_⟩
  obtain ⟨-, hside, hbusy⟩ := h.parts
  unfold fireBoundary
  dsimp only
  have hkept := lawful_drainKept g q (enteredAt s z)
  have hswap := (Steady.planSwapAtBoundary (s := u.setBoundary (some z))).trans Steady.recordsTakeEffect
  have hw := trackerBoundary_lawful z (hkept.records (hkept.planSwapAtBoundary (s := u.setBoundary (some z)) hu))
  generalize recordsTakeEffect (planSwapAtBoundary (u.setBoundary (some z))) = w at hswap hw ⊢
  have haw : ∀ x, (trackerBoundary z w).awaiting x = s.awaiting x ++ [z] := fun x => by
    rw [trackerBoundary_awaiting]
    unfold State.awaiting
    rw [hswap.verdicts, State.setBoundary_it, hv]
  obtain ⟨vse, vhwm, -, -⟩ := trackerBoundary_leaves w z
  generalize trackerBoundary z w = v at haw vse vhwm hw ⊢
  have hvse : v.se = s.se := (vse.trans hswap.se).trans hse
  have hev : enteredAt v z = enteredAt s z := by
    funext x
    unfold enteredAt
    rw [hvse]
  have hboth := bothEngines_lawful (s := v) (z := z) first h.settings (fun x =>
    entering_of_law (hside x) hnext habove (fun hidle => hbusy hrun (.inl hidle)) hvse (haw x)
      ((vhwm.trans hswap.hwm).trans hhwm)) (by rw [hev]; exact hw)
  dsimp only at hboth
  generalize engineBoundary (otherSide first) z (engineBoundary first z v) = t at hboth ⊢
  exact hboth

end Sys2Proof.Machine

/-!
Every step keeps the keys of the OPEN indications, the law of the Indication Table, and the law of the FLAW reports (R104 to
R106, R124, R128, R140).
-/
namespace Sys2Proof.Machine

namespace Lasting
variable {g : Tracking} {q : List (Pending FlawReport)} {s u : State}

/-! ## Requests -/

theorem startRun (h : Lasting g q s u) (hrun : runLaw u) (hidle : u.rc.run = .idle) : Lasting g q s (startRun u) := by
  have hlawful : (Machine.startRun u).track.Lawful g q (OpenAt g u.evaluatedTo) := by
    unfold Machine.startRun
    exact (lawful_drainKept g q _).runstate _ _ h.lawful
  have hcontinues := h.toContinues.startRun hrun hidle
  obtain ⟨c, l, r, heq⟩ := startRun_frame u
  rw [heq] at hlawful hcontinues ⊢
  exact h.keep hcontinues rfl rfl hlawful

theorem setChannel (h : Lasting g q s u) (x : Side) (ch : Channel) (r : ChannelRecord) :
    Lasting g q s (setChannel x ch r u) := by
  have hset := h.modifySc x (fun sc => { sc with pendingRecords := sc.pendingRecords.set ch (some r) })
  unfold Machine.setChannel
  dsimp only
  split
  · exact hset.record x ch
  · exact hset

/-- A request other than PRESET_POSITION and SET_TRACKING. -/
theorem of_effect {c : Instr} {t : State} (h : Effect c u t) (hpreset : c ≠ .presetPosition) (htracking : c ≠ .setTracking)
    (hrun : runLaw u) (hs : Lasting g q s u) : Lasting g q s t := by
  cases h with
  | presetPosition => exact absurd rfl hpreset
  | setTracking => exact absurd rfl htracking
  | unchanged => exact hs
  | queryStatus => exact hs.setLi rfl
  | setOdometry => exact hs.commitDu_steady _ rfl rfl
  | setSide => exact (lasting_sideKept g q s).setSide _ _ _ _ hs
  | @armSide _ x => exact (lasting_sideKept g q s).supplyFaultCheck _ ((lasting_sideKept g q s).enterArming x hs)
  | disarmSide => exact (lasting_sideKept g q s).disarmSide _ hs
  | clearSideFault => exact (lasting_sideKept g q s).clearSideFault _ hs
  | clearChannelFault => exact hs.modifySc _ _
  | setChannel => exact hs.setChannel _ _ _
  | @setProfile _ x n v =>
    exact (hs.modifySc x (fun sc => { sc with profiles := sc.profiles.set n v })).apart (.setPs _) rfl rfl rfl
  | writeShot => exact hs.apart (.setPs _) rfl rfl rfl
  | clearStaged => exact hs.apart (.setPs _) rfl rfl rfl
  | swapNow => exact hs.swapPlans
  | swapLater => exact hs.apart (.setPs _) rfl rfl rfl
  | setZone => exact hs.apart (.setIt rfl id) rfl rfl rfl
  | setOffset => exact hs.apart (.setIt rfl id) rfl rfl rfl
  | startRun idle => exact hs.startRun hrun idle
  | stopRun => exact hs.beginStop _
  | reset => exact hs.apart (.setRc id) rfl rfl rfl

/-! ## Events -/

theorem forwardCount (hs : Lasting g q s s) (first : Side) : Lasting g q s (forwardCount first s) := by
  unfold Machine.forwardCount
  dsimp only
  split
  · exact hs.commitDu_steady _ rfl rfl
  · split
    · split
      case isTrue hboundary =>
        simp only [isFireBoundary, Bool.and_eq_true, decide_eq_true_eq] at hboundary
        obtain ⟨hrun, habove⟩ := hboundary
        have hlawful := commitDu_lawful noLatch ((s.du.takeCount s.du.forwardPair s.now).forwardBoundary
          (s.du.step + 1) s.now s.ps.active.longerPlanTime) (hs.entered hrun rfl habove)
        obtain ⟨l, heq, -⟩ := commitDu_frame noLatch ((s.du.takeCount s.du.forwardPair s.now).forwardBoundary
          (s.du.step + 1) s.now s.ps.active.longerPlanTime) s
        rw [heq] at hlawful ⊢
        exact fireBoundary_lasting first hs hrun rfl habove rfl rfl rfl rfl rfl hlawful
      case isFalse hnot =>
        refine hs.commitDu _ (hs.toContinues.commitDu _ rfl fun hrun => .inr ?_) rfl
        simp only [isFireBoundary, Bool.and_eq_true, decide_eq_true_eq, not_and, Int.not_lt] at hnot
        exact hnot hrun
    · refine Lasting.beginStop (u := Machine.commitDu _ _ s) (hs.commitDu_steady _ ?_ ?_) _
      · rfl
      · rfl

theorem reverseCount (hs : Lasting g q s s) : Lasting g q s (reverseCount s) := by
  unfold Machine.reverseCount
  dsimp only
  split
  · exact hs.commitDu_steady _ rfl rfl
  · split
    · exact hs.commitDu _ (hs.toContinues.commitDu _ rfl fun _ => .inl (Int.sub_le_self _ (by decide))) rfl
    · exact hs.commitDu_steady _ rfl rfl

theorem sent {l m : Li} (h : Sent l m) : ∀ p ∈ m.flawQueue, p ∈ l.flawQueue := by
  intro p hp
  rcases h.flaw with heq | ⟨p', heq⟩
  · exact heq ▸ hp
  · rw [heq]
    exact List.mem_cons_of_mem _ hp

theorem sending {t : State} (hs : Lasting g q s s) (h : Sending s t) : Lasting g q s t := by
  have hlink : ∀ {l : Li}, Sent s.li l → (s.setLi l).track.Lawful g q (OpenAt g s.evaluatedTo) := fun hl =>
    hs.lawful.congr rfl rfl (sent hl)
  cases h with
  | nothing => exact hs
  | @frame l hl => exact hs.steady (.setLi l) fun _ => hlink hl
  | @motion l hl =>
    exact hs.steady ((Steady.setLi l).trans ⟨rfl, rfl, rfl, rfl, rfl, rfl, id, id⟩) fun _ => hlink hl
  | @flaw l hl =>
    exact (hs.steady ((Steady.setLi l).trans .releaseClusters) fun _ => releaseClusters_lawful (hlink hl)).drainEndTest

theorem releaseFront (hs : Lasting g q s s) : Lasting g q s (s.setTrack (s.track.releaseFront s.du.hwm)) :=
  hs.steady .releaseFront fun hu => setTrack_lawful s hu.releaseFront

theorem stepEvaluation (hs : Lasting g q s s) (x : Side) : Lasting g q s (stepEvaluation x s) := by
  obtain ⟨-, hside, -⟩ := hs.parts
  unfold Machine.stepEvaluation
  rw [(hside x).1]
  exact hs

theorem planSwapAtBoundary (hs : Lasting g q s s) : Lasting g q s (planSwapAtBoundary s) :=
  hs.steady .planSwapAtBoundary (lawful_drainKept g q _).planSwapAtBoundary

end Lasting

theorem Li.takeByte_flawQueue (now : Nat) (b : Byte) (l : Li) : (l.takeByte now b).flawQueue = l.flawQueue := by
  unfold Li.takeByte
  dsimp only
  split
  · rfl
  · split
    · split
      · unfold Li.holdFrame
        split <;> rfl
      · rfl
    · rfl

/-- R158 to R162: the receiver leaves the reports. -/
theorem characterReceived_flawQueue (c : Character) (s : State) : (characterReceived c s).li.flawQueue = s.li.flawQueue := by
  unfold characterReceived
  rw [State.setLi_li]
  split
  · unfold Li.assemble
    split
    · rfl
    · split
      · split <;> rfl
      · exact Li.takeByte_flawQueue _ _ _
  · unfold Li.hunt
    split
    · rfl
    · split
      · split <;> rfl
      · split <;> rfl

/-- An event that is no reset. -/
theorem Lasting.of_event {g : Tracking} {q : List (Pending FlawReport)} {c : Instr} {s t : State} (h : Event c s t)
    (hfall : ∀ after, c ≠ .pinResetAssert after) (hrun : c ≠ .resetRunActs) (hfull : c ≠ .resetFullActs)
    (hs : Lasting g q s s) : Lasting g q s t := by
  cases h with
  | forwardCount => exact hs.forwardCount _
  | reverseCount => exact hs.reverseCount
  | illegalTransition => exact hs.commitDu_steady _ rfl rfl
  | standstillTimerExpiry =>
    unfold standstillExpiry
    split
    · exact hs
    · exact (hs.apart (.advanceTo _) rfl rfl rfl).commitDu_steady _ rfl rfl
  | carriageInputChange => exact hs.modifySc _ _
  | debounceExpiry => exact (lasting_sideKept g q s).debounceExpiry _ hs
  | hvrdyArrival => exact (lasting_sideKept g q s).hvrdyArrival _ hs
  | hvrdyFall => exact hs.modifySc _ _
  | hvfltAsserted => exact (lasting_sideKept g q s).hvfltChange _ _ hs
  | rampTimerExpiry => exact (lasting_sideKept g q s).rampExpiry _ hs
  | planSwapAtBoundary => exact hs.planSwapAtBoundary
  | channelRecordTakesEffect =>
    split
    · exact hs.record _ _
    · exact hs
  | shotCompletion => exact hs.completeShot _ _ _
  | stepEvaluation => exact (hs.stepEvaluation _).drainTest
  | clusterRelease => exact hs.releaseFront.drainEndTest
  | drainReleasePhase => exact hs.drainTest
  | drainEnd => exact hs.drainEndTest
  | @characterReceived _ _ c => exact hs.setLi (characterReceived_flawQueue c s)
  | idleTimerExpiry =>
    unfold idleExpiry
    split
    · exact hs
    · exact hs.apart ⟨rfl, rfl, rfl, rfl, rfl, rfl, id, id⟩ rfl rfl rfl
  | holdInAssert => exact hs.setLi rfl
  | holdInRelease =>
    have hreleased : Lasting g q s (s.setLi { s.li with holdIn := false }) := hs.setLi rfl
    have hself : Lasting g q (s.setLi { s.li with holdIn := false }) (s.setLi { s.li with holdIn := false }) :=
      ⟨Continues.refl hreleased.live hreleased.law, hs.settings, hreleased.lawful⟩
    have hsent := hself.sending (transmissionStart_cases _)
    exact ⟨⟨⟨hsent.live, hsent.law, hsent.awaits⟩, hsent.mark⟩, hs.settings, hsent.lawful⟩
  | transmissionStart => exact hs.sending (transmissionStart_cases s)
  | transmissionEnd =>
    unfold transmissionEnd
    split
    · exact hs
    · exact hs.apart ⟨rfl, rfl, rfl, rfl, rfl, rfl, id, id⟩ rfl rfl rfl
  | resetRunActs => exact absurd rfl hrun
  | resetFullActs => exact absurd rfl hfull
  | pinResetAssert => exact absurd rfl (hfall _)

/-! ## Every step -/

/-- What the law of the Indication Table says of a step from `s` to `t`. -/
def tableStep (s t : State) : Prop :=
  trackerLaw t ∧ ∀ p ∈ t.li.flawQueue, p ∈ s.li.flawQueue ∨ p.report.law s.it.settings

theorem Lasting.start {s : State} (hlive : s.pinReset = false) (heval : evaluationLaw s) (htrack : trackerLaw s) :
    Lasting s.it.settings s.li.flawQueue s s := by
  obtain ⟨hsettings, hcap, hcluster, hclosed, hopened⟩ := htrack hlive
  exact ⟨.refl hlive heval, hsettings, ⟨⟨rfl, hcluster, hclosed, fun _ hp => .inl hp⟩, hcap, hopened⟩⟩

theorem Lasting.tableStep {s t : State} (h : Lasting s.it.settings s.li.flawQueue s t) : tableStep s t := by
  obtain ⟨-, hlaw, ⟨⟨hsettings, hcluster, hclosed, hqueue⟩, hcap, hopened⟩⟩ := h
  have ht : t.it.settings = s.it.settings := hsettings
  refine ⟨fun _ => ⟨?_, hcap, hcluster, ?_, ?_⟩, hqueue⟩
  · rw [ht]; exact hlaw
  · rw [ht]; exact hclosed
  · rw [ht]; exact hopened

/-- A step into a state whose table is empty. -/
theorem tableStep_free {s t : State} (ht : ∀ i : Fin 64, t.it.table[i] = .free) (hg : t.it.settings.law)
    (hq : ∀ p ∈ t.li.flawQueue, p ∈ s.li.flawQueue) : tableStep s t :=
  ⟨trackerLaw_free ht hg, fun p hp => .inl (hq p hp)⟩

/-- While RESET_N is low the law waits. -/
theorem tableStep_low {s t : State} (h : t.pinReset = true) (hq : t.li.flawQueue = s.li.flawQueue) : tableStep s t :=
  ⟨fun hlive => (nomatch h.symm.trans hlive), fun _ hp => .inl (hq ▸ hp)⟩

/-- R16, R124: PRESET_POSITION and SET_TRACKING take effect in IDLE, with the table empty. -/
theorem tableStep_of_idleEffect {c : Instr} {s u t : State} {f : Frame} {a : Answer} (h : Effect c u t)
    (hc : c = .presetPosition ∨ c = .setTracking) (hrun : runLaw u) (hu : Lasting s.it.settings s.li.flawQueue s u)
    (hq : u.li.flawQueue = s.li.flawQueue) : tableStep s (placeReply f a t) := by
  have hsettings : u.it.settings.law := by
    rw [show u.it.settings = s.it.settings from hu.lawful.settings]
    exact hu.settings
  rcases hc with rfl | rfl
  · cases h with
    | unchanged => exact Lasting.tableStep (hu.setLi rfl)
    | @presetPosition _ p idle =>
      obtain ⟨l, heq, hslots⟩ := commitDu_frame noLatch (u.du.preset (s32 p 0)) u
      rw [heq]
      exact tableStep_free (It.empty_iff.1 (hrun.table idle)) hsettings fun _ hp => hq ▸ hslots.flawQueue ▸ hp
  · cases h with
    | unchanged => exact Lasting.tableStep (hu.setLi rfl)
    | setTracking idle law => exact tableStep_free (It.empty_iff.1 (hrun.table idle)) law fun _ hp => hq ▸ hp

theorem tableStep_of_taking {c : Instr} {s t : State} (h : Taking c s t) (hrun : runLaw s)
    (hs : Lasting s.it.settings s.li.flawQueue s s) : tableStep s t := by
  obtain @⟨f, u, a, -, effect⟩ := h
  have hdropped : Lasting s.it.settings s.li.flawQueue s (dropFrame s) := hs.setLi rfl
  have hrun' : runLaw (dropFrame s) := setLi_runLaw _ hrun
  by_cases hc : c = .presetPosition ∨ c = .setTracking
  · exact tableStep_of_idleEffect effect hc hrun' hdropped rfl
  · obtain ⟨hpreset, htracking⟩ := not_or.1 hc
    exact Lasting.tableStep ((hdropped.of_effect effect hpreset htracking hrun').setLi rfl)

/-- What a RUN reset leaves of the tracker, and that no FLAW report waits. -/
theorem runReset_tracker (s : State) : (runReset s).it.settings = s.it.settings ∧ (runReset s).li.flawQueue = [] := by
  obtain ⟨v, c, hrecords, -⟩ := recordsTakeEffect_frame (runCleared s)
  obtain ⟨l, hplaced, hslots, -⟩ := placeRunstate_frame causeReset none (recordsTakeEffect (runCleared s))
  unfold runReset
  rw [hplaced, hrecords]
  rw [hrecords] at hslots
  exact ⟨rfl, hslots.flawQueue⟩

/-- R182: the request that a RUN reset takes finds an empty table and an empty flaw queue. -/
theorem resetRunActs_tableStep {s : State} (hs : Lasting s.it.settings s.li.flawQueue s s) : tableStep s (resetRunActs s) := by
  obtain ⟨hsettings, hqueue⟩ := runReset_tracker s
  have hfree : tableStep s (runReset s) := tableStep_free (runReset_free s) (by rw [hsettings]; exact hs.settings)
    (by rw [hqueue]; nofun)
  rw [resetRunActs_eq]
  rcases takeOldest_cases (runReset s) with h | ⟨c, h⟩
  · rw [h]; exact hfree
  · obtain ⟨hreset, -⟩ := runReset_follows hs.toFollows
    obtain ⟨htracker, hnew⟩ := tableStep_of_taking h (runReset_runLaw s) (.start hreset.live hreset.law hfree.1)
    rw [hqueue, hsettings] at hnew
    exact ⟨htracker, fun p hp => .inr ((hnew p hp).resolve_left List.not_mem_nil)⟩

theorem resetFullActs_tableStep (s : State) : tableStep s (resetFullActs s) := by
  refine tableStep_free freeTable_get Tracking.law_reset ?_
  unfold resetFullActs
  dsimp only
  obtain ⟨l, hplaced, hslots, -⟩ := placeRunstate_frame causeReset none { s with
    du := s.du.resetFull
    sc := ⟨s.sc.a.resetFull, s.sc.b.resetFull⟩
    ps := Ps.reset
    se := ⟨Se.reset, Se.reset⟩
    cs := ⟨Cs.reset, Cs.reset⟩
    it := It.reset
    gr := ⟨Gr.reset, Gr.reset⟩
    li := s.li.resetFull
    rc := ⟨.idle, .resetFull, .none, .ready⟩ }
  rw [hplaced]
  intro p hp
  rw [show l.flawQueue = [] from hslots.flawQueue] at hp
  cases hp

theorem liveStep_tableStep {c : Instr} {s t : State} (h : LiveStep c s t) (hrun : runLaw s)
    (hs : Lasting s.it.settings s.li.flawQueue s s) : tableStep s t := by
  cases h with
  | idle => exact hs.tableStep
  | taking h => exact tableStep_of_taking h hrun hs
  | event h =>
    by_cases hfall : ∃ after, c = .pinResetAssert after
    · obtain ⟨after, rfl⟩ := hfall
      cases h
      exact tableStep_low rfl rfl
    · by_cases hreset : c = .resetRunActs
      · subst hreset
        cases h
        exact actAwaited_keeps (P := tableStep s) hs.tableStep (resetRunActs_tableStep hs)
      · by_cases hfull : c = .resetFullActs
        · subst hfull
          cases h
          exact actAwaited_keeps (P := tableStep s) hs.tableStep (resetFullActs_tableStep s)
        · exact (Lasting.of_event h (fun after heq => hfall ⟨after, heq⟩) hreset hfull hs).tableStep

/-- R104, R106, R124, R128, R140. -/
theorem step_keeps_trackerLaw {s t : State} (hrun : runLaw s) (heval : evaluationLaw s) (htrack : trackerLaw s)
    (h : step s = .next t) : tableStep s t := by
  cases step_cases h with
  | empty => exact ⟨htrack, fun _ => .inl⟩
  | held front low => exact tableStep_low low rfl
  | release front low => exact tableStep_free freeTable_get Tracking.law_reset nofun
  | @live c rest _ front high h =>
    have hstep : tableStep (s.started c rest) t := liveStep_tableStep h (by exact hrun)
      (Lasting.start high (by exact heval) (by exact htrack))
    exact hstep

/-- Settles O58: the keys by what a gate opens; the table and the reports by the law that closures, formation, release and
step evaluation keep. -/
theorem keysUniqueKept : Obligations.KeysUniqueKept :=
  ⟨fun _ _ => step_keeps_keysUnique, fun _ _ => step_keeps_trackerLaw⟩

end Sys2Proof.Machine
